-- ==== Sys2Proof/Word.lean ====
section
/-! DEFINITION. The vocabulary of the model: bytes, microsecond times, and the small closed sets of names the spec uses
(modes, phases, array names, operation names, event codes, draws). Cites: 00_scope.md section 4, 10_state.md, 20_memory.md,
30_encoding.md R80, R81, 60_exceptions.md R176. -/

namespace Sys2Proof

/-- u8 (00_scope.md section 4). -/
abbrev Byte := BitVec 8

/-- u64 microseconds, the width of NOW and of every time register (10_state.md R40). -/
abbrev Time := BitVec 64

/-- MODE (R22). -/
inductive Mode where
  | receive
  | transmit
  deriving DecidableEq, Repr, Inhabited

/-- LOOP_PHASE, agent L's position in an iteration (R38). -/
inductive LoopPhase where
  | iterStart
  | txBranch
  | rxCmd
  | rxDrain
  deriving DecidableEq, Repr, Inhabited

/-- RXC_STATE, the Receive-mode command collector's state (R36). -/
inductive RxcState where
  | idle
  | hdr
  | param
  deriving DecidableEq, Repr, Inhabited

/-- The five internal byte arrays (R50). -/
inductive ArrayName where
  | rxBuf
  | txBufA
  | txBufB
  | scratch
  | rxcPbuf
  deriving DecidableEq, Repr, Inhabited

/-- The operations of R80 and the environment steps of R81, by name. -/
inductive OpName where
  | timerStrobe | tick | tickRx | tickTx
  | rxDrain
  | rxCmd | cmdPttDown | cmdTuneTo | cmdFilters | cmdIgnore | cmdAbandon
  | txScan | txIngest | txSwap | cmdPttUp | cmdTxIgnore
  | modeEnterTx | modeEnterRx | guardCheck
  | wdtKick | loopIter
  | reset
  | envTime | envHostByte | envWdtExpire
  deriving DecidableEq, Repr, Inhabited

/-- The error events of R176. `rxOverrun` is reserved there and never raised by the block (R173). -/
inductive EventCode where
  | sampleFault | cmdTimeout | rxOverrun | txDrop | runaway | wdtReset | tickCoalesced
  deriving DecidableEq, Repr, Inhabited

/-- One draw of SampleIn(): a sample or the token FAULT (R42). -/
inductive SampleRead where
  | value (b : Byte)
  | fault
  deriving DecidableEq, Repr, Inhabited

/-- The draws of one step of the drain: the level SQUELCH has when the send reads it (R42, R109), and whether the head write is a
step apart from the send (R60) or one step with it (R108; log entry 23). -/
structure DrainDraw where
  squelch : Bool
  apart : Bool
  deriving DecidableEq, Repr, Inhabited

/-- The draws of one RESET that reach a register or the FIFO: SAMPLE_OUT (R33, R186), and how many of the oldest bytes of
the HostLink FIFO are lost, the rest being the suffix kept (R191). -/
structure ResetDraw where
  sampleOut : Byte
  drop : Nat
  deriving DecidableEq, Repr, Inhabited

/-- The 17 parameter bytes of TUNE_TO as its four fields (R69). -/
structure TuneParams where
  tx : List Byte
  rx : List Byte
  tone : List Byte
  sq : Byte
  deriving DecidableEq, Repr, Inhabited

/-- The 3 parameter bytes of FILTERS (R70). -/
structure FilterParams where
  emph : Byte
  hpf : Byte
  lpf : Byte
  deriving DecidableEq, Repr, Inhabited

/-- How a request's bytes are to be read: an operation id with its operand bytes (R80), or a host frame in one of the two
dialects (R71, R72). -/
inductive Format where
  | opid
  | rxFrame
  | txFrame
  deriving DecidableEq, Repr, Inhabited

/-- One line of the scenario script: its format and its bytes. -/
structure Request where
  format : Format
  bytes : List Byte
  deriving DecidableEq, Repr, Inhabited

end Sys2Proof
end

