-- ==== Sys2Proof/Config.lean ====
section
/-! DEFINITION. The named parameters of 00_scope.md section 3 with the spec's defaults, the fixed delimiter, and the free
values: opaque constants for everything the spec draws. -/

namespace Sys2Proof.Config

/-- The parameters of 00_scope.md section 3 (R7 to R14). No operation changes one (R45). State carries them, so that every
statement about all states is a statement about all parameter values (log entry 1). `chunkMax` none is "no bound" (D12). -/
structure Params where
  cRx : Nat
  cTx : Nat
  mTx : Nat
  drainMin : Nat
  sampleRateHz : Nat
  tickPeriodUs : Nat
  paramTimeoutUs : Nat
  runawayMaxUs : Nat
  silence : Byte
  chunkMax : Option Nat
  wdtTimeoutUs : Nat
  deriving DecidableEq, Repr

/-- The defaults of 00_scope.md section 3. DESIGN CHOICE (log entry 2): WDT_TIMEOUT_US is OPEN in the spec; 300000000 is the
value program P4 of 95_test_vectors.md assumes. -/
def defaults : Params where
  cRx := 4000
  cTx := 1000
  mTx := 20
  drainMin := 64
  sampleRateHz := 8000
  tickPeriodUs := 125
  paramTimeoutUs := 500000
  runawayMaxUs := 200000000
  silence := 0x80
  chunkMax := none
  wdtTimeoutUs := 300000000

/-- CHUNK_MAX >= 1 where it is a bound. -/
def chunkMaxOk : Option Nat → Bool
  | none => true
  | some k => decide (1 ≤ k)

/-- The constraints of the table in 00_scope.md section 3 and of R200, whose longest bounded iteration is a parameter wait of
PARAM_TIMEOUT_US and steps that take no time. -/
def Params.valid (p : Params) : Bool :=
  decide (2 ≤ p.cRx) && decide (2 ≤ p.cTx) && decide (p.mTx < p.cTx)
    && decide (1 ≤ p.drainMin) && decide (p.drainMin < p.cRx)
    && decide (1 ≤ p.sampleRateHz) && decide (p.sampleRateHz ≤ 1000000)
    && decide (1 ≤ p.tickPeriodUs) && decide (1 ≤ p.paramTimeoutUs) && decide (1 ≤ p.runawayMaxUs)
    && chunkMaxOk p.chunkMax && decide (1 ≤ p.wdtTimeoutUs) && decide (p.paramTimeoutUs < p.wdtTimeoutUs)

/-- DELIM, in transmission order (R11). -/
def delim : List Byte := [0xFF, 0x00, 0xFF, 0x00, 0xFF, 0x00, 0xFF, 0x00]

/-- FREE VALUE (log entry 5): what slot i of an array reads as when nothing has written it since the reset numbered
`epoch` ("any value in every slot", R186, R189, D37). -/
opaque freeArrayByte : ArrayName → Nat → Nat → Byte

/-- FREE VALUE (log entry 7): which enabled step the n-th free choice takes (R62, R182, I24). -/
opaque freeSchedule : Nat → Nat

/-- FREE VALUE (log entry 6): the n-th draw of SampleIn() (R42, I6). -/
opaque freeSample : Nat → SampleRead

/-- FREE VALUE (log entry 6): the n-th read of SQUELCH (R42, I7). -/
opaque freeSquelch : Nat → Bool

/-- FREE VALUE (log entry 23): whether the n-th free step of agent L, where it is a drain's head write, is a step apart from the
send (R60) or one step with it (R108). -/
opaque freeApart : Nat → Bool

/-- FREE VALUE (log entry 6): the n-th time advance the environment asks for (R40, I8). -/
opaque freeAdvance : Nat → Nat

/-- FREE VALUE (log entry 6): the n-th host byte (R41, I13). -/
opaque freeHostByte : Nat → Byte

/-- FREE VALUE (log entry 6): the draws of the n-th watchdog reset (R186, R191, I10, I12). -/
opaque freeReset : Nat → ResetDraw

end Sys2Proof.Config
end

