-- ==== Sys2Proof/Syntax.lean ====
section
/-! DEFINITION. The operations of the block as instructions: one constructor per row of spec/opcode_table.json. The draws
an operation makes (R42, R40, R41, R186, R191) are its operands (log entry 6), and so are the values its caller hands it
(the payload of TX.INGEST, the selector of CMD.TX_IGNORE; log entry 10). -/

namespace Sys2Proof

/-- One constructor per row of the opcode table: 25 OPID rows (R80, R81), then the 6 FRAME9 rows (R88). -/
inductive Instr where
  -- OPID rows
  | timerStrobe
  | tick (d : SampleRead)
  | tickRx (d : SampleRead)
  | tickTx
  | rxDrain (q : DrainDraw)
  | rxCmd
  | cmdPttDown
  | cmdTuneTo
  | cmdFilters
  | cmdIgnore
  | cmdAbandon
  | txScan
  | txIngest (p : List Byte)
  | txSwap
  | cmdPttUp
  | cmdTxIgnore (b : Byte)
  | modeEnterTx
  | modeEnterRx
  | guardCheck
  | wdtKick
  | loopIter (q : DrainDraw)
  | reset (d : ResetDraw)
  | envTime (d : Time)
  | envHostByte (b : Byte)
  | envWdtExpire (d : ResetDraw)
  -- FRAME9 rows, Receive dialect: bytes 0 .. 7 are not checked (R71), so they are an operand
  | framePttDown (pre : BitVec 64)
  | frameTuneTo (pre : BitVec 64) (p : TuneParams)
  | frameFilters (pre : BitVec 64) (p : FilterParams)
  | frameIgnore (pre : BitVec 64) (sel : Byte)
  -- FRAME9 rows, Transmit dialect: all of the delimiter is compared (R72)
  | framePttUp
  | frameTxIgnore (sel : Byte)
  deriving DecidableEq, Repr

end Sys2Proof
end

