-- ==== Sys2Proof/WellFormed.lean ====
section
/-! DEFINITION. Which instruction terms the encodings of the spec can carry. -/

namespace Sys2Proof

/-- The selectors a Receive-mode frame of CMD.IGNORE may carry: all but 1, 3 and 4 (R75). -/
def ignoredInReceive (sel : Byte) : Bool := sel != 1 && sel != 3 && sel != 4

/-- The selectors a Transmit-mode frame of CMD.TX_IGNORE may carry: all but 2 (R76). -/
def ignoredInTransmit (sel : Byte) : Bool := sel != 2

/-- The field widths of TUNE_TO: 7, 7, 2 and 1 characters (R69). -/
def TuneParams.wellFormed (p : TuneParams) : Bool :=
  p.tx.length == 7 && p.rx.length == 7 && p.tone.length == 2

/-- A term is well formed when an encoding carries it: the payload of TX.INGEST has k >= 1 bytes (R116), a time advance is
at least 1 (R40), a dropped FIFO prefix fits its 8 operand bytes (log entry 9), selectors stand in their own row (R75,
R76) and the TUNE_TO fields have their widths (R69). -/
def Instr.wellFormed : Instr → Bool
  | .txIngest p => !p.isEmpty
  | .cmdTxIgnore b => ignoredInTransmit b
  | .reset d => decide (d.drop < 2 ^ 64)
  | .envTime d => d != 0
  | .envWdtExpire d => decide (d.drop < 2 ^ 64)
  | .frameTuneTo _ p => p.wellFormed
  | .frameIgnore _ sel => ignoredInReceive sel
  | .frameTxIgnore sel => ignoredInTransmit sel
  | .timerStrobe | .tick _ | .tickRx _ | .tickTx | .rxDrain _ | .rxCmd | .cmdPttDown | .cmdTuneTo | .cmdFilters
  | .cmdIgnore | .cmdAbandon | .txScan | .txSwap | .cmdPttUp | .modeEnterTx | .modeEnterRx | .guardCheck | .wdtKick
  | .loopIter _ | .envHostByte _ | .framePttDown _ | .frameFilters _ _ | .framePttUp => true

end Sys2Proof
end

