-- ==== Sys2Proof/Decode.lean ====
section
/-! DEFINITION. Decoding and encoding: operation ids (R80 to R82), host frames in their two dialects (R67 to R76, R88), and
the requests of the scenario script. The operand bytes that follow an operation id are the model's own (log entry 9). -/

namespace Sys2Proof

/-- Why bytes name no instruction. -/
inductive DecodeError where
  /-- a request of no bytes -/
  | emptyRequest
  /-- an id listed in neither R80 nor R81 (R82) -/
  | unknownId (id : Byte)
  /-- the operand bytes of an operation are too few, too many, or no value of its operand -/
  | badOperands (op : OpName)
  /-- too few bytes for the header of a frame, or a parameter count that is not the selector's (R74) -/
  | badFrameLength
  /-- the Transmit dialect compares the delimiter, and these bytes are not it (R72) -/
  | noDelimiter
  deriving DecidableEq, Repr

/-! ### Operation ids -/

/-- The 8-bit operation id (tables of R80 and R81). -/
def OpName.id : OpName → Byte
  | .timerStrobe => 0x01
  | .tick => 0x10
  | .tickRx => 0x11
  | .tickTx => 0x12
  | .rxDrain => 0x20
  | .rxCmd => 0x30
  | .cmdPttDown => 0x31
  | .cmdTuneTo => 0x32
  | .cmdFilters => 0x33
  | .cmdIgnore => 0x34
  | .cmdAbandon => 0x35
  | .txScan => 0x40
  | .txIngest => 0x41
  | .txSwap => 0x42
  | .cmdPttUp => 0x43
  | .cmdTxIgnore => 0x44
  | .modeEnterTx => 0x50
  | .modeEnterRx => 0x51
  | .guardCheck => 0x52
  | .wdtKick => 0x60
  | .loopIter => 0x61
  | .reset => 0x70
  | .envTime => 0xE0
  | .envHostByte => 0xE1
  | .envWdtExpire => 0xE2

/-- The code of an error event (table of R176). -/
def EventCode.code : EventCode → Byte
  | .sampleFault => 0x01
  | .cmdTimeout => 0x02
  | .rxOverrun => 0x03
  | .txDrop => 0x04
  | .runaway => 0x05
  | .wdtReset => 0x06
  | .tickCoalesced => 0x07

/-- The operation an id names, if any (R80 to R82). -/
def opOfId (b : Byte) : Option OpName :=
  match b.toNat with
  | 0x01 => some .timerStrobe
  | 0x10 => some .tick
  | 0x11 => some .tickRx
  | 0x12 => some .tickTx
  | 0x20 => some .rxDrain
  | 0x30 => some .rxCmd
  | 0x31 => some .cmdPttDown
  | 0x32 => some .cmdTuneTo
  | 0x33 => some .cmdFilters
  | 0x34 => some .cmdIgnore
  | 0x35 => some .cmdAbandon
  | 0x40 => some .txScan
  | 0x41 => some .txIngest
  | 0x42 => some .txSwap
  | 0x43 => some .cmdPttUp
  | 0x44 => some .cmdTxIgnore
  | 0x50 => some .modeEnterTx
  | 0x51 => some .modeEnterRx
  | 0x52 => some .guardCheck
  | 0x60 => some .wdtKick
  | 0x61 => some .loopIter
  | 0x70 => some .reset
  | 0xE0 => some .envTime
  | 0xE1 => some .envHostByte
  | 0xE2 => some .envWdtExpire
  | _ => none

/-! ### Eight-byte fields -/

/-- A 64-bit value as 8 bytes, the most significant first: frame byte 0 is in the high bits (R88). -/
def bytesOf64 (v : BitVec 64) : List Byte :=
  [v.extractLsb' 56 8, v.extractLsb' 48 8, v.extractLsb' 40 8, v.extractLsb' 32 8,
   v.extractLsb' 24 8, v.extractLsb' 16 8, v.extractLsb' 8 8, v.extractLsb' 0 8]

/-- Eight bytes, the most significant first, as a 64-bit value. -/
def ofBytes64 (b0 b1 b2 b3 b4 b5 b6 b7 : Byte) : BitVec 64 :=
  b0 ++ b1 ++ b2 ++ b3 ++ b4 ++ b5 ++ b6 ++ b7

/-- Eight bytes exactly, the most significant first, as a 64-bit value. -/
def read64 : List Byte → Option (BitVec 64)
  | [b0, b1, b2, b3, b4, b5, b6, b7] => some (ofBytes64 b0 b1 b2 b3 b4 b5 b6 b7)
  | _ => none

/-! ### Selectors and frames -/

/-- What a Receive-mode selector selects (R68, R75, R129). -/
inductive RxCommand where
  | pttDown
  | tuneTo
  | filters
  | ignore
  deriving DecidableEq, Repr

/-- Receive-mode selector decode: 1, 3 and 4 act, every other value is ignored (R68, R75, R129). -/
def rxSelector (sel : Byte) : RxCommand :=
  if sel = 1 then .pttDown else if sel = 3 then .tuneTo else if sel = 4 then .filters else .ignore

/-- How many parameter bytes follow the header in Receive mode (R74). -/
def RxCommand.paramCount : RxCommand → Nat
  | .pttDown => 0
  | .tuneTo => 17
  | .filters => 3
  | .ignore => 0

/-- PTT_UP, the one selector that acts in Transmit mode (R68, R145). -/
def pttUpSelector : Byte := 2

/-- The 17 parameter bytes as the four fields, by position (R69, R73). -/
def tuneParamsOf (ps : List Byte) : TuneParams where
  tx := ps.take 7
  rx := (ps.drop 7).take 7
  tone := (ps.drop 14).take 2
  sq := ps.getD 16 0

/-- The four fields as 17 parameter bytes (R69). -/
def TuneParams.bytes (p : TuneParams) : List Byte := p.tx ++ p.rx ++ p.tone ++ [p.sq]

/-- The 3 parameter bytes of FILTERS (R70). -/
def FilterParams.bytes (p : FilterParams) : List Byte := [p.emph, p.hpf, p.lpf]

/-- A whole Receive-mode frame: the 8 bytes before the selector are not checked (R71), the selector alone gives the
command and the number of parameter bytes (R74). -/
def decodeRxFrame : List Byte → Except DecodeError Instr
  | b0 :: b1 :: b2 :: b3 :: b4 :: b5 :: b6 :: b7 :: sel :: ps =>
    let pre := ofBytes64 b0 b1 b2 b3 b4 b5 b6 b7
    let cmd := rxSelector sel
    if ps.length = cmd.paramCount then
      match cmd with
      | .pttDown => .ok (.framePttDown pre)
      | .tuneTo => .ok (.frameTuneTo pre (tuneParamsOf ps))
      | .filters => .ok (.frameFilters pre ⟨ps.getD 0 0, ps.getD 1 0, ps.getD 2 0⟩)
      | .ignore => .ok (.frameIgnore pre sel)
    else .error .badFrameLength
  | _ => .error .badFrameLength

/-- A whole Transmit-mode frame: the 8 delimiter bytes, all compared, and one selector; no parameters (R72, R74). -/
def decodeTxFrame (bs : List Byte) : Except DecodeError Instr :=
  if bs.length = 9 then
    if bs.take 8 = Config.delim then
      if bs.getD 8 0 = pttUpSelector then .ok .framePttUp else .ok (.frameTxIgnore (bs.getD 8 0))
    else .error .noDelimiter
  else .error .badFrameLength

/-! ### Operands of operation ids (the model's own; log entry 9) -/

/-- The draws of a drain's step: bit 0 the squelch level, bit 1 whether the head write is a step apart. -/
def decodeDrain : List Byte → Option DrainDraw
  | [b] =>
    if b = 0 then some ⟨false, false⟩
    else if b = 1 then some ⟨true, false⟩
    else if b = 2 then some ⟨false, true⟩
    else if b = 3 then some ⟨true, true⟩
    else none
  | _ => none

/-- A sample draw: 00 v is the sample v, 01 00 is FAULT. -/
def decodeSample : List Byte → Option SampleRead
  | [k, v] => if k = 0 then some (.value v) else if k = 1 ∧ v = 0 then some .fault else none
  | _ => none

/-- The draws of a RESET: SAMPLE_OUT, then the number of FIFO bytes lost in 8 bytes. -/
def decodeReset : List Byte → Option ResetDraw
  | so :: rest => (read64 rest).map fun d => ⟨so, d.toNat⟩
  | [] => none

/-- A time advance: 8 bytes that hold the amount less 1, for an advance is at least 1 (R40). -/
def decodeAdvance (bs : List Byte) : Option Time :=
  (read64 bs).bind fun v => if v + 1 = 0 then none else some (v + 1)

/-- An operation that takes no operand bytes. -/
def bare (op : OpName) (i : Instr) : List Byte → Except DecodeError Instr
  | [] => .ok i
  | _ => .error (.badOperands op)

/-- An operation whose operand bytes must be one of its operand's values. -/
def withOperand (op : OpName) (i : Option Instr) : Except DecodeError Instr :=
  match i with
  | some i => .ok i
  | none => .error (.badOperands op)

/-- The one operand byte of CMD.TX_IGNORE: a selector other than 2 (R76, R146). -/
def decodeTxIgnored : List Byte → Option Instr
  | [b] => if ignoredInTransmit b then some (.cmdTxIgnore b) else none
  | _ => none

/-- The payload of TX.INGEST: every remaining byte, at least one (R116). -/
def decodePayload : List Byte → Option Instr
  | [] => none
  | p => some (.txIngest p)

/-- The one operand byte of ENV.HOST_BYTE (R41). -/
def decodeHostByte : List Byte → Option Instr
  | [b] => some (.envHostByte b)
  | _ => none

/-- An operation and its operand bytes as an instruction. -/
def decodeOperands (op : OpName) (bs : List Byte) : Except DecodeError Instr :=
  match op with
  | .timerStrobe => bare op .timerStrobe bs
  | .tick => withOperand op ((decodeSample bs).map .tick)
  | .tickRx => withOperand op ((decodeSample bs).map .tickRx)
  | .tickTx => bare op .tickTx bs
  | .rxDrain => withOperand op ((decodeDrain bs).map .rxDrain)
  | .rxCmd => bare op .rxCmd bs
  | .cmdPttDown => bare op .cmdPttDown bs
  | .cmdTuneTo => bare op .cmdTuneTo bs
  | .cmdFilters => bare op .cmdFilters bs
  | .cmdIgnore => bare op .cmdIgnore bs
  | .cmdAbandon => bare op .cmdAbandon bs
  | .txScan => bare op .txScan bs
  | .txIngest => withOperand op (decodePayload bs)
  | .txSwap => bare op .txSwap bs
  | .cmdPttUp => bare op .cmdPttUp bs
  | .cmdTxIgnore => withOperand op (decodeTxIgnored bs)
  | .modeEnterTx => bare op .modeEnterTx bs
  | .modeEnterRx => bare op .modeEnterRx bs
  | .guardCheck => bare op .guardCheck bs
  | .wdtKick => bare op .wdtKick bs
  | .loopIter => withOperand op ((decodeDrain bs).map .loopIter)
  | .reset => withOperand op ((decodeReset bs).map .reset)
  | .envTime => withOperand op ((decodeAdvance bs).map .envTime)
  | .envHostByte => withOperand op (decodeHostByte bs)
  | .envWdtExpire => withOperand op ((decodeReset bs).map .envWdtExpire)

/-- An operation id and its operand bytes (R80 to R82). -/
def decodeOp : List Byte → Except DecodeError Instr
  | [] => .error .emptyRequest
  | id :: bs =>
    match opOfId id with
    | none => .error (.unknownId id)
    | some op => decodeOperands op bs

/-- The decoder: total on any bytes in any format, rejecting by name. -/
def decode (r : Request) : Except DecodeError Instr :=
  match r.format with
  | .opid => decodeOp r.bytes
  | .rxFrame => decodeRxFrame r.bytes
  | .txFrame => decodeTxFrame r.bytes

/-! ### Encoding -/

/-- The operand byte of a drain's step. -/
def encodeDrain (q : DrainDraw) : List Byte :=
  [(if q.squelch then 1 else 0) + (if q.apart then 2 else 0)]

/-- The operand bytes of a sample draw. -/
def encodeSample : SampleRead → List Byte
  | .value v => [0, v]
  | .fault => [1, 0]

/-- The operand bytes of a RESET's draws. -/
def encodeReset (d : ResetDraw) : List Byte := d.sampleOut :: bytesOf64 (BitVec.ofNat 64 d.drop)

/-- An OPID request: the id, then the operand bytes. -/
def opRequest (op : OpName) (operands : List Byte) : Request := ⟨.opid, op.id :: operands⟩

/-- A Receive-mode frame: the 8 bytes before the selector, the selector, the parameters (R67). -/
def rxFrameRequest (pre : BitVec 64) (sel : Byte) (params : List Byte) : Request :=
  ⟨.rxFrame, bytesOf64 pre ++ sel :: params⟩

/-- A Transmit-mode frame: the delimiter and the selector (R67, R72). -/
def txFrameRequest (sel : Byte) : Request := ⟨.txFrame, Config.delim ++ [sel]⟩

/-- The encoder. -/
def encode : Instr → Request
  | .timerStrobe => opRequest .timerStrobe []
  | .tick d => opRequest .tick (encodeSample d)
  | .tickRx d => opRequest .tickRx (encodeSample d)
  | .tickTx => opRequest .tickTx []
  | .rxDrain q => opRequest .rxDrain (encodeDrain q)
  | .rxCmd => opRequest .rxCmd []
  | .cmdPttDown => opRequest .cmdPttDown []
  | .cmdTuneTo => opRequest .cmdTuneTo []
  | .cmdFilters => opRequest .cmdFilters []
  | .cmdIgnore => opRequest .cmdIgnore []
  | .cmdAbandon => opRequest .cmdAbandon []
  | .txScan => opRequest .txScan []
  | .txIngest p => opRequest .txIngest p
  | .txSwap => opRequest .txSwap []
  | .cmdPttUp => opRequest .cmdPttUp []
  | .cmdTxIgnore b => opRequest .cmdTxIgnore [b]
  | .modeEnterTx => opRequest .modeEnterTx []
  | .modeEnterRx => opRequest .modeEnterRx []
  | .guardCheck => opRequest .guardCheck []
  | .wdtKick => opRequest .wdtKick []
  | .loopIter q => opRequest .loopIter (encodeDrain q)
  | .reset d => opRequest .reset (encodeReset d)
  | .envTime d => opRequest .envTime (bytesOf64 (d - 1))
  | .envHostByte b => opRequest .envHostByte [b]
  | .envWdtExpire d => opRequest .envWdtExpire (encodeReset d)
  | .framePttDown pre => rxFrameRequest pre 1 []
  | .frameTuneTo pre p => rxFrameRequest pre 3 p.bytes
  | .frameFilters pre p => rxFrameRequest pre 4 p.bytes
  | .frameIgnore pre sel => rxFrameRequest pre sel []
  | .framePttUp => txFrameRequest pttUpSelector
  | .frameTxIgnore sel => txFrameRequest sel

/-! ### The opcode table's words -/

/-- How many operand bytes of zeros complete an operation id that stands alone (log entry 15). -/
def zeroOperands : OpName → Nat
  | .tick | .tickRx => 2
  | .rxDrain | .loopIter | .txIngest | .cmdTxIgnore | .envHostByte => 1
  | .reset | .envWdtExpire => 9
  | .envTime => 8
  | .timerStrobe | .tickTx | .rxCmd | .cmdPttDown | .cmdTuneTo | .cmdFilters | .cmdIgnore | .cmdAbandon | .txScan
  | .txSwap | .cmdPttUp | .modeEnterTx | .modeEnterRx | .guardCheck | .wdtKick => 0

/-- The frame a 72-bit FRAME9 value stands for: frame byte 0 in bits 71..64, frame byte 8 in bits 7..0 (R88), parameter
bytes zero. A bare value carries no mode, so the table's order decides the dialect: the Receive rows of selectors 1, 3 and
4 first, then the Transmit rows where the delimiter stands, then CMD.IGNORE (log entry 15). -/
def frameOfTableWord (w : Nat) : Request :=
  let pre := BitVec.ofNat 64 (w / 256)
  let sel := BitVec.ofNat 8 w
  let cmd := rxSelector sel
  if cmd = .ignore ∧ bytesOf64 pre = Config.delim then txFrameRequest sel
  else rxFrameRequest pre sel (List.replicate cmd.paramCount 0)

/-- The request a word of the opcode table stands for. An 8-bit word is an operation id; where it is none and is the last
byte of a Receive FRAME9 row's match, and for every other width, it is a FRAME9 value whose bits above are 0 (log entry 15). -/
def requestOfTableWord (nbits w : Nat) : Request :=
  if nbits = 8 then
    match opOfId (BitVec.ofNat 8 w) with
    | some op => opRequest op (List.replicate (zeroOperands op) 0)
    | none =>
      if rxSelector (BitVec.ofNat 8 w) = .ignore ∧ BitVec.ofNat 8 w ≠ 0 then ⟨.opid, [BitVec.ofNat 8 w]⟩
      else frameOfTableWord w
  else frameOfTableWord w

/-- The instruction the decoder reads from a word of the opcode table (log entry 15). -/
def decodeTableWord (nbits w : Nat) : Option Instr :=
  match decode (requestOfTableWord nbits w) with
  | .ok i => some i
  | .error _ => none

end Sys2Proof
end

