-- ==== Sys2Proof/Machine/State.lean ====
section
/-! DEFINITION. The state of the block as plain data (10_state.md, 20_memory.md), the reasons a step can stop, and the state
right after the power-on reset (R186). -/

namespace Sys2Proof.Machine

/-- Why the machine stops with an error. -/
inductive Fault where
  /-- An access to slot `i` outside the array `a`: "must fault, not wrap or clamp" (R55, I16). Raised by `writeSlot` and by
  every read of a slot. Safe: no state that meets the model's invariant raises it. -/
  | arrayIndex (a : ArrayName) (i : Nat)
  deriving DecidableEq, Repr

/-- What a scenario line can break (R83, R84). -/
inductive ScenarioError where
  /-- `@t=n` with n below NOW -/
  | timeBackwards
  /-- a TUNE_TO string that has not exactly the width shown -/
  | frameWidth
  /-- an assertion that does not hold -/
  | expectation
  deriving DecidableEq, Repr

/-- Why a step has no meaning. -/
inductive Refusal where
  /-- An instruction not modelled: no arm of `exec` answers it. Safe. -/
  | notModelled (mnemonic : String)
  /-- The script holds a request that names no operation or frame: "refuses the script" (R82). Raised by the step. Safe. -/
  | undecodable (e : DecodeError)
  /-- A line of a scenario breaks a condition of the notation (R83, R84; log entry 21). Raised by `runLine` alone. Safe. -/
  | scenario (e : ScenarioError)
  deriving DecidableEq, Repr

/-- One internal array: the slots written since the last reset, indexes strictly rising (R50). A slot not listed has not been
written since that reset and holds any value (R51, R189): `readSlot` reads it as a free value (log entry 5). -/
abbrev Mem := List Host.Cell

/-- A request on the radio-module port (R44, R136, R138). -/
inductive RadioRequest where
  | tune (tx rx tone : List Byte) (sq : Byte)
  | filters (emph hpf lpf : Bool) (raw : List Byte)
  deriving DecidableEq, Repr

/-- A value handed to one of the four output streams (R44). -/
inductive Emission where
  | hostOut (bs : List Byte)
  | radio (r : RadioRequest)
  | sampleWr (t : Time) (b : Byte)
  | wdtKick (t : Time)
  deriving DecidableEq, Repr

/-- What the history holds: an operation or environment step that ran, a raised event (R167), a value handed to an output
stream (R44; log entry 12). -/
inductive EntryKind where
  | op (o : OpName)
  | event (e : EventCode)
  | emit (x : Emission)
  deriving DecidableEq, Repr

/-- The payload of a history entry (R167, R176; log entry 12). -/
inductive Info where
  | none
  | byte (b : Byte)
  | count (n : Nat)
  | time (t : Time)
  | timeout (sel : Byte) (discarded : Nat)
  deriving DecidableEq, Repr

/-- One entry of the event history (R167). -/
structure Entry where
  now : Time
  kind : EntryKind
  info : Info
  deriving DecidableEq, Repr

/-- The whole machine. Registers in the order of 10_state.md section 2, then the arrays, the time base and the environment's
side, the output streams, and the model's own fields. -/
structure State where
  /-- the parameters (00_scope.md section 3); the model's own field (log entry 1) -/
  cfg : Config.Params
  /-- MODE -/
  mode : Mode
  /-- RX_HEAD -/
  rxHead : Nat
  /-- RX_TAIL -/
  rxTail : Nat
  /-- TX_FILL_A -/
  txFillA : Bool
  /-- TX_LEN_A -/
  txLenA : Nat
  /-- TX_LEN_B -/
  txLenB : Nat
  /-- TX_PLAY_START -/
  txPlayStart : Time
  /-- TX_PLAY_END -/
  txPlayEnd : Time
  /-- DLM_CNT -/
  dlmCnt : Nat
  /-- GUARD_VALID -/
  guardValid : Bool
  /-- GUARD_START -/
  guardStart : Time
  /-- TX_EN -/
  txEn : Bool
  /-- DBG_IND -/
  dbgInd : Bool
  /-- SAMPLE_OUT -/
  sampleOut : Byte
  /-- TICK_PENDING -/
  tickPending : Bool
  /-- TMR_NEXT -/
  tmrNext : Time
  /-- RXC_STATE -/
  rxcState : RxcState
  /-- RXC_CNT -/
  rxcCnt : Nat
  /-- RXC_SEL -/
  rxcSel : Byte
  /-- RXC_T0 -/
  rxcT0 : Time
  /-- LOOP_PHASE -/
  loopPhase : LoopPhase
  /-- DR_SNAP -/
  drSnap : Nat
  /-- DR_N -/
  drN : Nat
  /-- DR_I -/
  drI : Nat
  /-- DR_ACTIVE -/
  drActive : Bool
  /-- RXBUF -/
  rxBuf : Mem
  /-- TXBUF_A -/
  txBufA : Mem
  /-- TXBUF_B -/
  txBufB : Mem
  /-- SCRATCH -/
  scratch : Mem
  /-- RXC_PBUF -/
  rxcPbuf : Mem
  /-- NOW (R40) -/
  now : Time
  /-- WDT_LAST (R43) -/
  wdtLast : Time
  /-- the HostLink input FIFO, oldest byte first (R41) -/
  hostIn : List Byte
  /-- HOST_OUT (R44) -/
  hostOut : List Byte
  /-- RADIO (R44) -/
  radio : List RadioRequest
  /-- SAMPLE_WR (R44) -/
  sampleWr : List (Time × Byte)
  /-- WDT_KICK (R44) -/
  wdtKick : List Time
  /-- the event history, oldest entry first (R167) -/
  history : List Entry
  /-- which reset's draw the arrays' unwritten slots hold; the model's own field (log entry 5) -/
  arrayEpoch : Nat
  /-- how many free choices the step has made; the model's own field (log entry 7) -/
  draws : Nat
  /-- the scenario lines not yet run; the model's own field (log entry 8) -/
  script : List Request
  deriving DecidableEq, Repr

/-- The machine right after the power-on RESET (R186), at the default parameters. DESIGN CHOICE where R186 and R189 say "any
value": NOW = 0 (log entry 3), SAMPLE_OUT = 0 (log entry 4); and where R190 and R191 leave the HostLink FIFO's contents
open: none (log entry 22). The arrays list nothing, so every slot is a free value (log entry 5). The history holds RESET's own entry (log entry 13). -/
def State.reset : State where
  cfg := Config.defaults
  mode := .receive
  rxHead := 0
  rxTail := 0
  txFillA := true
  txLenA := 0
  txLenB := 0
  txPlayStart := 0
  txPlayEnd := 0
  dlmCnt := 0
  guardValid := false
  guardStart := 0
  txEn := false
  dbgInd := false
  sampleOut := 0
  tickPending := false
  tmrNext := 125
  rxcState := .idle
  rxcCnt := 0
  rxcSel := 0
  rxcT0 := 0
  loopPhase := .iterStart
  drSnap := 0
  drN := 0
  drI := 0
  drActive := false
  rxBuf := []
  txBufA := []
  txBufB := []
  scratch := []
  rxcPbuf := []
  now := 0
  wdtLast := 0
  hostIn := []
  hostOut := []
  radio := []
  sampleWr := []
  wdtKick := []
  history := [⟨0, .op .reset, .none⟩]
  arrayEpoch := 0
  draws := 0
  script := []

end Sys2Proof.Machine
end

