-- ==== Sys2Proof/Machine/Ops.lean ====
section
/-! DEFINITION. The named operations over the state: the internal arrays (20_memory.md), the event history (60_exceptions.md
section 1), the HostLink FIFO (R41), the two mode transitions (R151, R153) and RESET (R186). The block has no exceptions
that trap (R177): raising an event is `raiseEvent`; the one interrupt saves and restores nothing (R179, R180), so entering
it is the operation TICK itself (Machine/Sampler.lean); the one fatal event forces `applyReset`. -/

namespace Sys2Proof.Machine

/-- What a meaning answers. -/
abbrev Result := Host.Outcome State Fault Refusal

/-- Go on from a next state; a stop stays the same stop. -/
def andThen (r : Result) (f : State → Result) : Result :=
  match r with
  | .next s => f s
  | .fault e => .fault e
  | .refused e => .refused e

/-! ### Arrays -/

/-- The byte last written to slot i, if any since the reset. -/
def memRead : Mem → Nat → Option Byte
  | [], _ => none
  | (a, b) :: m, i => if a = i then some b else memRead m i

/-- Write slot i, keeping the indexes strictly rising. -/
def memWrite : Mem → Nat → Byte → Mem
  | [], i, v => [(i, v)]
  | (a, b) :: m, i, v =>
    if i < a then (i, v) :: (a, b) :: m else if i = a then (i, v) :: m else (a, b) :: memWrite m i v

/-- Indexes strictly rising and none below lo. -/
def memRising : Nat → Mem → Bool
  | _, [] => true
  | lo, (a, _) :: m => decide (lo ≤ a) && memRising (a + 1) m

/-- The canonical form of an array of `cap` slots. No entry can equal what an unlisted slot reads as, for an unlisted slot
has no byte of its own (log entry 5). -/
def memWf (cap : Nat) (m : Mem) : Bool := memRising 0 m && m.all fun c => decide (c.1 < cap)

/-- The number of slots of an array (R50). -/
def capacity (p : Config.Params) : ArrayName → Nat
  | .rxBuf => p.cRx
  | .txBufA => p.cTx
  | .txBufB => p.cTx
  | .scratch => p.cRx - 1
  | .rxcPbuf => 17

/-- An array of the state. -/
def getArray (s : State) : ArrayName → Mem
  | .rxBuf => s.rxBuf
  | .txBufA => s.txBufA
  | .txBufB => s.txBufB
  | .scratch => s.scratch
  | .rxcPbuf => s.rxcPbuf

/-- The state with one array replaced. -/
def setArray (a : ArrayName) (m : Mem) (s : State) : State :=
  match a with
  | .rxBuf => { s with rxBuf := m }
  | .txBufA => { s with txBufA := m }
  | .txBufB => { s with txBufB := m }
  | .scratch => { s with scratch := m }
  | .rxcPbuf => { s with rxcPbuf := m }

/-- What slot i of an array holds: the byte last written, or the free value of a slot that nothing has written since the
last reset (R51, R189; log entry 5). -/
def slot (s : State) (a : ArrayName) (i : Nat) : Byte :=
  (memRead (getArray s a) i).getD (Config.freeArrayByte a s.arrayEpoch i)

/-- MemRead(ARR, i, 1): none outside the array (R55). -/
def readSlot (s : State) (a : ArrayName) (i : Nat) : Option Byte :=
  if i < capacity s.cfg a then some (slot s a i) else none

/-- MemWrite(ARR, i, 1, v): a fault outside the array (R55). -/
def writeSlot (a : ArrayName) (i : Nat) (v : Byte) (s : State) : Result :=
  if i < capacity s.cfg a then .next (setArray a (memWrite (getArray s a) i v) s) else .fault (.arrayIndex a i)

/-- n reads at rising indexes. -/
def readSlots (s : State) (a : ArrayName) : Nat → Nat → Option (List Byte)
  | _, 0 => some []
  | i, n + 1 =>
    match readSlot s a i, readSlots s a (i + 1) n with
    | some b, some bs => some (b :: bs)
    | _, _ => none

/-- One write per byte, at rising indexes. -/
def writeSlots (a : ArrayName) : Nat → List Byte → State → Result
  | _, [], s => .next s
  | i, b :: bs, s => andThen (writeSlot a i b s) (writeSlots a (i + 1) bs)

/-! ### The event history -/

/-- Append one entry at the current NOW (R167). -/
def appendEntry (k : EntryKind) (info : Info) (s : State) : State :=
  { s with history := s.history ++ [⟨s.now, k, info⟩] }

/-- Record that an operation runs; its entry stands before those of the operations it calls (R167; log entry 12). -/
def recordOp (o : OpName) (info : Info) (s : State) : State := appendEntry (.op o) info s

/-- raise Event(code, info): an entry in the history and nothing else (R167, R176). -/
def raiseEvent (e : EventCode) (info : Info) (s : State) : State := appendEntry (.event e) info s

/-! ### Output streams -/

/-- Emit(port, value) and HostWrite: the stream gains the value, and the history records it (R44). -/
def emit (x : Emission) (s : State) : State :=
  appendEntry (.emit x) .none
    (match x with
     | .hostOut bs => { s with hostOut := s.hostOut ++ bs }
     | .radio r => { s with radio := s.radio ++ [r] }
     | .sampleWr t b => { s with sampleWr := s.sampleWr ++ [(t, b)] }
     | .wdtKick t => { s with wdtKick := s.wdtKick ++ [t] })

/-! ### HostLink -/

/-- One byte arrives at the FIFO's tail: ENV.HOST_BYTE (R41, R81). -/
def hostAppend (b : Byte) (s : State) : State :=
  { recordOp .envHostByte (.byte b) s with hostIn := s.hostIn ++ [b] }

/-- Bytes arrive one after the other (R41). -/
def hostAppendAll (bs : List Byte) (s : State) : State := bs.foldl (fun s b => hostAppend b s) s

/-- HostAvail() (R41). -/
def hostAvail (s : State) : Nat := s.hostIn.length

/-- The state after n HostRead()s; the bytes read are the n oldest (R41, R61). -/
def hostDrop (n : Nat) (s : State) : State := { s with hostIn := s.hostIn.drop n }

/-! ### Mode transitions -/

/-- MODE.ENTER_TX, one atomic step (R151), with the engine reset of R121. -/
def enterTx (s : State) : State :=
  { recordOp .modeEnterTx .none s with
    mode := .transmit
    dbgInd := true
    txEn := true
    txLenA := 0
    txLenB := 0
    txFillA := true
    txPlayStart := s.now
    txPlayEnd := s.now
    dlmCnt := 0
    guardValid := true
    guardStart := s.now }

/-- MODE.ENTER_RX, one atomic step (R153). -/
def enterRx (s : State) : State :=
  { recordOp .modeEnterRx .none s with
    mode := .receive
    txEn := false
    guardValid := false
    guardStart := 0 }

/-! ### Reset -/

/-- RESET, one atomic step (R186): NOW, the streams and the history keep their values, the FIFO keeps a drawn suffix (R191),
SAMPLE_OUT is drawn (R33), every array slot becomes any value (R189), and the parameters, the draw counter and the script
are no state of the block's. -/
def applyReset (d : ResetDraw) (s : State) : State :=
  { recordOp .reset .none s with
    mode := .receive
    rxHead := 0
    rxTail := 0
    txFillA := true
    txLenA := 0
    txLenB := 0
    txPlayStart := 0
    txPlayEnd := 0
    dlmCnt := 0
    guardValid := false
    guardStart := 0
    txEn := false
    dbgInd := false
    sampleOut := d.sampleOut
    tickPending := false
    tmrNext := s.now + BitVec.ofNat 64 s.cfg.tickPeriodUs
    rxcState := .idle
    rxcCnt := 0
    rxcSel := 0
    rxcT0 := 0
    loopPhase := .iterStart
    drSnap := 0
    drN := 0
    drI := 0
    drActive := false
    rxBuf := []
    txBufA := []
    txBufB := []
    scratch := []
    rxcPbuf := []
    wdtLast := s.now
    hostIn := s.hostIn.drop d.drop
    arrayEpoch := s.arrayEpoch + 1 }

end Sys2Proof.Machine
end

