-- ==== Sys2Proof/Machine/Operands.lean ====
section
/-! DEFINITION. The operands the rules compute: cursors and counts (R15), buffer roles (R25, R115), the playback index (R97)
and end time (R118), chunks and their classification (R141 to R144), parameter fields (R69, R70, R131). -/

namespace Sys2Proof.Machine

/-- (a - b) mod n for a, b below n: the mathematical remainder (00_scope.md section 4). -/
def subMod (a b n : Nat) : Nat := (a + (n - b % n)) % n

/-- The unsent count, (RX_TAIL - RX_HEAD) mod C_RX (R15). -/
def unsentCount (s : State) : Nat := subMod s.rxTail s.rxHead s.cfg.cRx

/-- The RXBUF slot of copy step DR_I, (RX_HEAD + DR_I) mod C_RX (R106). -/
def drainSlot (s : State) : Nat := (s.rxHead + s.drI) % s.cfg.cRx

/-- The filling buffer (R25). -/
def fillingBuffer (s : State) : ArrayName := if s.txFillA then .txBufA else .txBufB

/-- The playing buffer: the other one (R25). -/
def playingBuffer (s : State) : ArrayName := if s.txFillA then .txBufB else .txBufA

/-- The filling buffer's length (R26). -/
def fillingLen (s : State) : Nat := if s.txFillA then s.txLenA else s.txLenB

/-- The playing buffer's length (R26). -/
def playingLen (s : State) : Nat := if s.txFillA then s.txLenB else s.txLenA

/-- Write the filling buffer's length (R116). -/
def setFillingLen (n : Nat) (s : State) : State :=
  if s.txFillA then { s with txLenA := n } else { s with txLenB := n }

/-- PlayIndex(t, s, e, L), exact (R97, R17). -/
def playIndex (t start stop : Time) (len : Nat) : Nat :=
  ((t.toNat - start.toNat) * (len - 1)) / (stop.toNat - start.toNat)

/-- The play window of a buffer of `filled` bytes, in microseconds (R118, R17). -/
def playDuration (p : Config.Params) (filled : Nat) : Nat := filled * 1000000 / p.sampleRateHz

/-! ### Derived rates (R204): for reference, no operation reads one but `playDuration` -/

/-- Rx samples stored per second with on-time ticks: one for each tick period (R204, R35). -/
def rxSamplesPerSecond (p : Config.Params) : Nat := 1000000 / p.tickPeriodUs

/-- The Rx lap time in microseconds: C_RX ticks (R204). -/
def rxLapUs (p : Config.Params) : Nat := p.cRx * p.tickPeriodUs

/-- How long DRAIN_MIN samples take to arrive, in microseconds (R204). -/
def drainThresholdUs (p : Config.Params) : Nat := p.drainMin * p.tickPeriodUs

/-- The shortest and the longest playing buffer that TX.INGEST swaps in, C_TX - M_TX and C_TX bytes (R204, R116). -/
def playingBufferRange (p : Config.Params) : Nat × Nat := (p.cTx - p.mTx, p.cTx)

/-- The index step of a playing buffer per microsecond, as numerator and denominator (R204, R97, R118). -/
def indexStep (p : Config.Params) (len : Nat) : Nat × Nat := (len - 1, playDuration p len)

/-! ### Chunks -/

/-- How many host bytes one TX.SCAN takes, min(HostAvail(), CHUNK_MAX) (R143, R144). -/
def chunkLen (s : State) : Nat :=
  match s.cfg.chunkMax with
  | none => hostAvail s
  | some k => min (hostAvail s) k

/-- Match(c, b): a match advances the count, a mismatch resets it to 0 and tests nothing else (R141). -/
def matchDelim (c : Nat) (b : Byte) : Nat := if Config.delim[c]? = some b then c + 1 else 0

/-- What a scan of a chunk found: DLM_CNT afterwards, the payload, the ignored selectors in order, and whether it stopped at
PTT_UP. -/
structure ScanResult where
  dlmCnt : Nat
  payload : List Byte
  ignored : List Byte
  pttUp : Bool
  deriving DecidableEq, Repr

/-- The classification loop of TX.SCAN (R143): at count 8 the byte is a selector, PTT_UP ends the scan and any other is
excised (R146); every other byte is payload, delimiter bytes too (R147). -/
def scanBytes : Nat → List Byte → ScanResult
  | c, [] => ⟨c, [], [], false⟩
  | c, b :: bs =>
    if c = 8 then
      if b = pttUpSelector then ⟨0, [], [], true⟩
      else
        let r := scanBytes 0 bs
        { r with ignored := b :: r.ignored }
    else
      let r := scanBytes (matchDelim c b) bs
      { r with payload := b :: r.payload }

/-- N: how many parameter bytes the collector waits for (R131). -/
def paramsWanted (s : State) : Nat := if s.rxcSel = 3 then 17 else 3

/-- A FILTERS flag: 1 exactly for the byte '1', 0x31 (R138). -/
def filterFlag (b : Byte) : Bool := b == 0x31

end Sys2Proof.Machine
end

