-- ==== Sys2Proof/Machine/Flags.lean ====
section
/-! DEFINITION. The conditions the rules test: elapsed times and their comparisons (R16, R184), the enabling conditions of the
steps, and agent L's holds (R130, R131). -/

namespace Sys2Proof.Machine

/-- (NOW - T) mod 2^64, in microseconds (R16). -/
def elapsed (s : State) (t : Time) : Nat := (s.now - t).toNat

/-- The watchdog has expired: NOW - WDT_LAST >= WDT_TIMEOUT_US (R43, R187). -/
def watchdogDue (s : State) : Bool := decide (s.cfg.wdtTimeoutUs ≤ elapsed s s.wdtLast)

/-- A strobe is due: NOW >= TMR_NEXT (R89). -/
def strobeDue (s : State) : Bool := decide (s.tmrNext ≤ s.now)

/-- The emission condition of TICK.TX (R98). -/
def windowOpen (s : State) : Bool :=
  decide (1 ≤ playingLen s) && decide (s.txPlayStart ≤ s.now) && decide (s.now < s.txPlayEnd)

/-- The runaway guard fires: strictly more than RUNAWAY_MAX_US (R155). -/
def guardFires (s : State) : Bool := s.guardValid && decide (s.cfg.runawayMaxUs < elapsed s s.guardStart)

/-- The parameter wait has timed out: NOW - RXC_T0 >= PARAM_TIMEOUT_US (R131). -/
def paramTimedOut (s : State) : Bool := decide (s.cfg.paramTimeoutUs ≤ elapsed s s.rxcT0)

/-- All the parameter bytes are available; tested before the deadline (R131). -/
def paramsAvailable (s : State) : Bool := decide (paramsWanted s ≤ hostAvail s)

/-- The first n slots of RXC_PBUF have been written since the last reset: a parameter step has stored a command's bytes there
(R131). DESIGN CHOICE: this is R49's "written since reset" for the commands' reads, in place of its bound RXC_CNT, which is 0
then (log entry 24). -/
def paramsStored (n : Nat) (s : State) : Bool := (List.range n).all fun i => (memRead s.rxcPbuf i).isSome

/-- The swap test, once per chunk (R116, R119). -/
def swapDue (s : State) : Bool := decide (s.cfg.cTx - s.cfg.mTx ≤ fillingLen s)

/-- TX.SCAN is enabled (R143): the guard check has passed. -/
def scanEnabled (s : State) : Bool :=
  s.loopPhase == .txBranch && s.mode == .transmit && !guardFires s

/-- The start step of RX.DRAIN is enabled (R105). -/
def drainStartEnabled (s : State) : Bool :=
  s.loopPhase == .rxDrain && !s.drActive && s.mode == .receive

/-- CMD.ABANDON's condition in the parameter step (R131, R132). -/
def abandonEnabled (s : State) : Bool :=
  s.rxcState == .param && !paramsAvailable s && paramTimedOut s

/-- The collector's step is enabled: start (R127), header byte (R128), parameters (R131). -/
def collectorEnabled (s : State) : Bool :=
  match s.rxcState with
  | .idle => s.loopPhase == .rxCmd
  | .hdr => decide (1 ≤ hostAvail s)
  | .param => paramsAvailable s || paramTimedOut s

/-- A step of the drain is enabled: start (R105), copy (R106) or commit (R108). -/
def drainEnabled (s : State) : Bool :=
  if s.drActive then decide (s.drI ≤ s.drN) else drainStartEnabled s

/-- Agent L has an enabled step in its phase (R160, R164). -/
def agentLEnabled (s : State) : Bool :=
  match s.loopPhase with
  | .iterStart => true
  | .txBranch => guardFires s || s.mode == .transmit
  | .rxCmd => collectorEnabled s
  | .rxDrain => drainEnabled s

end Sys2Proof.Machine
end

