-- ==== Sys2Proof/Machine/Environment.lean ====
section
/-! DEFINITION. RESET and the environment's steps: ENV.TIME, ENV.HOST_BYTE, ENV.WDT_EXPIRE (70_reset_and_hazards.md section 1,
10_state.md section 3). -/

namespace Sys2Proof.Machine

/-- RESET (R186). -/
def execReset (d : ResetDraw) (s : State) : Result := .next (applyReset d s)

/-- ENV.TIME: NOW advances by an amount of at least 1 and never goes back, so an advance past 2^64 - 1 is no step of the
environment and changes nothing (R40; log entry 18). -/
def execEnvTime (d : Time) (s : State) : Result :=
  if 1 ≤ d.toNat ∧ s.now.toNat + d.toNat < 2 ^ 64 then
    .next { recordOp .envTime (.time d) s with now := s.now + d }
  else .next s

/-- ENV.HOST_BYTE: one byte arrives at the FIFO's tail (R41). -/
def execEnvHostByte (b : Byte) (s : State) : Result :=
  .next (hostAppend b s)

/-- ENV.WDT_EXPIRE: E_WDT_RESET, then RESET (R175, R187); before the timeout there is no such step (log entry 11). -/
def execEnvWdtExpire (d : ResetDraw) (s : State) : Result :=
  if watchdogDue s then
    .next (applyReset d (raiseEvent .wdtReset (.time s.wdtLast) (recordOp .envWdtExpire .none s)))
  else .next s

end Sys2Proof.Machine
end

