-- ==== Sys2Proof/Machine/TxEngine.lean ====
section
/-! DEFINITION. The fill side of the TxPlaybackEngine (42_tx_engine.md): TX.INGEST and TX.SWAP. -/

namespace Sys2Proof.Machine

/-- TX.SWAP, one atomic step (R118, R125). -/
def swapBuffers (s : State) : State :=
  let s := recordOp .txSwap .none s
  { s with
    txPlayStart := s.now
    txPlayEnd := BitVec.ofNat 64 (s.now.toNat + playDuration s.cfg (fillingLen s))
    txLenA := if s.txFillA then s.txLenA else 0
    txLenB := if s.txFillA then 0 else s.txLenB
    txFillA := !s.txFillA }

/-- After the append: the length, the drop event and the swap test (R116, R117, R119). -/
def ingestDone (len kept dropped : Nat) (s : State) : State :=
  let s := setFillingLen (len + kept) s
  let s := if 0 < dropped then raiseEvent .txDrop (.count dropped) s else s
  if swapDue s then swapBuffers s else s

/-- TX.INGEST: the first bytes of the payload that fit are appended, the rest are dropped (R116). -/
def ingest (p : List Byte) (s : State) : Result :=
  let s := recordOp .txIngest (.count p.length) s
  let len := fillingLen s
  let kept := min p.length (s.cfg.cTx - len)
  andThen (writeSlots (fillingBuffer s) len (p.take kept) s) fun s => .next (ingestDone len kept (p.length - kept) s)

/-- TX.INGEST (R116). -/
def execTxIngest (p : List Byte) (s : State) : Result := ingest p s

/-- TX.SWAP (R118). -/
def execTxSwap (s : State) : Result := .next (swapBuffers s)

end Sys2Proof.Machine
end

