-- ==== Sys2Proof/Machine/Framer.lean ====
section
/-! DEFINITION. The ProtocolFramer (43_framer.md): the Receive-mode collector and its commands, the Transmit-mode scan. -/

namespace Sys2Proof.Machine

/-! ### Commands -/

/-- CMD.PTT_DOWN (R134). -/
def pttDown (s : State) : State := enterTx (recordOp .cmdPttDown .none s)

/-- CMD.TUNE_TO (R136): the four fields by position, MODE.ENTER_RX, then the request. DESIGN CHOICE: it reads R136's 17 slots,
where R49 has the collector read below RXC_CNT, which is 0 by then (R48, R128; log entry 24). -/
def tuneTo (s : State) : Result :=
  let s := recordOp .cmdTuneTo .none s
  match readSlots s .rxcPbuf 0 7, readSlots s .rxcPbuf 7 7, readSlots s .rxcPbuf 14 2, readSlot s .rxcPbuf 16 with
  | some tx, some rx, some tone, some sq => .next (emit (.radio (.tune tx rx tone sq)) (enterRx s))
  | _, _, _, _ => .fault (.arrayIndex .rxcPbuf 16)

/-- CMD.FILTERS (R138): the flags and the raw bytes. DESIGN CHOICE: it reads R138's 3 slots, not those below RXC_CNT (R49; log
entry 24). -/
def setFilters (s : State) : Result :=
  let s := recordOp .cmdFilters .none s
  match readSlot s .rxcPbuf 0, readSlot s .rxcPbuf 1, readSlot s .rxcPbuf 2 with
  | some e, some h, some l =>
    .next (emit (.radio (.filters (filterFlag e) (filterFlag h) (filterFlag l) [e, h, l])) s)
  | _, _, _ => .fault (.arrayIndex .rxcPbuf 2)

/-- CMD.IGNORE: the history entry CMD.IGNORE(RXC_SEL) and nothing else (R139). -/
def ignoreCommand (s : State) : State := recordOp .cmdIgnore (.byte s.rxcSel) s

/-- CMD.ABANDON: the partial parameter bytes are discarded, E_CMD_TIMEOUT is raised (R132, R172). -/
def abandon (s : State) : State :=
  let a := hostAvail s
  raiseEvent .cmdTimeout (.timeout s.rxcSel a) (hostDrop a (recordOp .cmdAbandon .none s))

/-- Completion of a Receive-mode command (R140). -/
def completeCommand (s : State) : State :=
  { s with
    rxcState := .idle
    rxcCnt := 0
    loopPhase := if s.mode = .receive then .rxDrain else .iterStart }

/-! ### The collector -/

/-- The start step (R127). -/
def collectorStart (s : State) : State :=
  { recordOp .rxCmd .none s with rxcState := .hdr, rxcCnt := 0 }

/-- Begin the parameter wait (R129). -/
def beginParams (s : State) : State := { s with rxcState := .param, rxcT0 := s.now }

/-- Selector dispatch in Receive mode (R129). -/
def dispatchSelector (s : State) : State :=
  match rxSelector s.rxcSel with
  | .pttDown => completeCommand (pttDown s)
  | .tuneTo => beginParams s
  | .filters => beginParams s
  | .ignore => completeCommand (ignoreCommand s)

/-- The header-byte step: positions 0 .. 7 are discarded and not compared, the ninth byte is the selector (R128); with no
host byte available agent L holds (R130; log entry 11). -/
def headerByte (s : State) : State :=
  match s.hostIn with
  | [] => s
  | b :: _ =>
    let s := hostDrop 1 (recordOp .rxCmd .none s)
    if s.rxcCnt < 8 then { s with rxcCnt := s.rxcCnt + 1 }
    else dispatchSelector { s with rxcSel := b, rxcCnt := 0 }

/-- The parameter bytes into RXC_PBUF, the first at index 0 (R52, R131). -/
def storeParams (bs : List Byte) (s : State) : Result := writeSlots .rxcPbuf 0 bs s

/-- The command whose parameters are in RXC_PBUF (R131). -/
def runParamCommand (s : State) : Result := if s.rxcSel = 3 then tuneTo s else setFilters s

/-- The parameter step: availability is tested before the deadline; with neither, agent L holds (R131; log entry 11). -/
def paramStep (s : State) : Result :=
  if paramsAvailable s then
    let bs := s.hostIn.take (paramsWanted s)
    let s := hostDrop (paramsWanted s) (recordOp .rxCmd .none s)
    andThen (storeParams bs s) fun s =>
      andThen (runParamCommand s) fun s => .next (completeCommand s)
  else if paramTimedOut s then .next (completeCommand (abandon (recordOp .rxCmd .none s)))
  else .next s

/-- The collector's next step (R127, R128, R131); IDLE outside phase RX_CMD there is none (log entry 11). -/
def collectorStep (s : State) : Result :=
  match s.rxcState with
  | .idle => if s.loopPhase = .rxCmd then .next (collectorStart s) else .next s
  | .hdr => .next (headerByte s)
  | .param => paramStep s

/-! ### The Transmit-mode scan -/

/-- CMD.TX_IGNORE: the history entry CMD.TX_IGNORE(b) and nothing else (R146). -/
def ignoreInTransmit (b : Byte) (s : State) : State := recordOp .cmdTxIgnore (.byte b) s

/-- CMD.PTT_UP: MODE.ENTER_RX; the chunk's rest and its payload are dropped by the scan (R145). -/
def pttUp (s : State) : State := enterRx (recordOp .cmdPttUp .none s)

/-- The end of a scan: PTT_UP, or the ingestion of the payload if there is one (R143, R145). -/
def scanFinish (r : ScanResult) (s : State) : Result :=
  if r.pttUp then .next (pttUp s)
  else if r.payload = [] then .next s
  else ingest r.payload s

/-- Classify one chunk whose bytes have been read (R143). -/
def scanChunk (c : List Byte) (s : State) : Result :=
  let r := scanBytes s.dlmCnt c
  let s := r.ignored.foldl (fun s b => ignoreInTransmit b s) { s with dlmCnt := r.dlmCnt }
  andThen (scanFinish r s) fun s => .next { s with loopPhase := .iterStart }

/-- TX.SCAN: take one chunk and classify it (R143, R144). -/
def scan (s : State) : Result :=
  let k := chunkLen s
  let s := recordOp .txScan (.count k) s
  if k = 0 then .next { s with loopPhase := .iterStart }
  else scanChunk (s.hostIn.take k) (hostDrop k s)

/-! ### Meanings -/

/-- RX.CMD: the collector's next atomic step (R127 to R131). -/
def execRxCmd (s : State) : Result := collectorStep s

/-- CMD.PTT_DOWN on its own: decoded only in Receive mode. "In Transmit mode, selector 1 after a delimiter is CMD.TX_IGNORE"
(R134). -/
def execCmdPttDown (s : State) : Result :=
  match s.mode with
  | .receive => .next (pttDown s)
  | .transmit => .next (ignoreInTransmit 1 s)

/-- CMD.TUNE_TO on its own: reached only after the parameter step has stored its 17 bytes, so with a slot still unwritten
there is no such step (R49, R131; log entries 11 and 24). In Transmit mode selector 3 is CMD.TX_IGNORE (R137). -/
def execCmdTuneTo (s : State) : Result :=
  match s.mode with
  | .receive => if paramsStored 17 s then tuneTo s else .next s
  | .transmit => .next (ignoreInTransmit 3 s)

/-- CMD.FILTERS on its own: reached only after the parameter step has stored its 3 bytes, so with a slot still unwritten
there is no such step (R49, R131; log entries 11 and 24). In Transmit mode selector 4 is CMD.TX_IGNORE (R146). -/
def execCmdFilters (s : State) : Result :=
  match s.mode with
  | .receive => if paramsStored 3 s then setFilters s else .next s
  | .transmit => .next (ignoreInTransmit 4 s)

/-- CMD.IGNORE: no action in any mode (R139). -/
def execCmdIgnore (s : State) : Result := .next (ignoreCommand s)

/-- CMD.ABANDON on its own: the timeout outcome of the parameter wait (R131, R132); elsewhere there is no such step (log entry
11). -/
def execCmdAbandon (s : State) : Result :=
  if abandonEnabled s then .next (abandon s) else .next s

/-- TX.SCAN (R143); where it is not enabled, no step (log entry 11). -/
def execTxScan (s : State) : Result :=
  if scanEnabled s then scan s else .next s

/-- CMD.PTT_UP on its own: only valid while in Transmit (R68, R145). "Selector 2 (PTT_UP) in Receive mode is ignored" (R139):
the CMD.IGNORE of selector 2. -/
def execCmdPttUp (s : State) : Result :=
  match s.mode with
  | .receive => .next (recordOp .cmdIgnore (.byte pttUpSelector) s)
  | .transmit => .next (pttUp s)

/-- CMD.TX_IGNORE: no action in any mode (R146). -/
def execCmdTxIgnore (b : Byte) (s : State) : Result := .next (ignoreInTransmit b s)

end Sys2Proof.Machine
end

