-- ==== Sys2Proof/Machine/RxBuffer.lean ====
section
/-! DEFINITION. The consumer of the Rx buffer (41_rx_buffer.md): RX.DRAIN's start, copy and commit steps. -/

namespace Sys2Proof.Machine

/-- The start step: the snapshot and the count (R105). -/
def drainStart (s : State) : State :=
  let s := recordOp .rxDrain .none s
  if unsentCount s < s.cfg.drainMin then { s with loopPhase := .iterStart }
  else { s with drSnap := s.rxTail, drN := unsentCount s, drI := 0, drActive := true }

/-- One copy step (R106). -/
def drainCopy (s : State) : Result :=
  let s := recordOp .rxDrain .none s
  match readSlot s .rxBuf (drainSlot s) with
  | some v => andThen (writeSlot .scratch s.drI v s) fun s => .next { s with drI := s.drI + 1 }
  | none => .fault (.arrayIndex .rxBuf (drainSlot s))

/-- Squelch gating of the scratch copy (R109). -/
def squelchGate (q : Bool) (s : State) : Result :=
  if q then writeSlots .scratch 0 (List.replicate s.drN s.cfg.silence) s else .next s

/-- The send (R110). -/
def drainSend (s : State) : Result :=
  match readSlots s .scratch 0 s.drN with
  | some bs => .next { emit (.hostOut bs) s with drActive := false, loopPhase := .iterStart }
  | none => .fault (.arrayIndex .scratch s.drN)

/-- The commit step: head advance, gating, send, in that order, as one step (R108, R109, R110). It is this one atomic step in every
run; where `headWrite` has gone before, its head advance writes what is there already. -/
def drainCommit (q : Bool) (s : State) : Result :=
  let s := recordOp .rxDrain .none s
  andThen (squelchGate q { s with rxHead := s.drSnap }) drainSend

/-- R60's head write, a step of its own before the commit step: RX_HEAD alone. DESIGN CHOICE: a step that R108, which has the head
advance in the commit, does not know (log entry 23). -/
def headWrite (s : State) : State := { recordOp .rxDrain .none s with rxHead := s.drSnap }

/-- The drain's next step (R105, R106, R108); where none is enabled, no step (log entry 11). With every byte copied, R60 makes the
head write and the send two steps that a tick may land between, and R108 makes the commit one: the draw says whether R60's head
write goes first, and R108's whole commit step follows either way (DESIGN CHOICE, log entry 23).
RX_HEAD = DR_SNAP is the head write done, for a drain copies from 1 to C_RX - 1 bytes. -/
def drainStep (q : DrainDraw) (s : State) : Result :=
  if s.drActive then
    if s.drI < s.drN then drainCopy s
    else if s.drI = s.drN then
      if q.apart = true ∧ s.rxHead ≠ s.drSnap then .next (headWrite s) else drainCommit q.squelch s
    else .next s
  else if drainStartEnabled s then .next (drainStart s)
  else .next s

/-- RX.DRAIN: one of its atomic steps (R60). -/
def execRxDrain (q : DrainDraw) (s : State) : Result := drainStep q s

end Sys2Proof.Machine
end

