-- ==== Sys2Proof/Machine/ModeControl.lean ====
section
/-! DEFINITION. The ModeController, the RunawayGuard, the watchdog notification and the loop sequencer (44_mode_control.md). -/

namespace Sys2Proof.Machine

/-- GUARD.CHECK (R155, R174). -/
def checkGuard (s : State) : State :=
  let s := recordOp .guardCheck .none s
  if guardFires s then enterRx (raiseEvent .runaway (.count (elapsed s s.guardStart)) s) else s

/-- WDT.KICK (R158). -/
def kickWatchdog (s : State) : State :=
  emit (.wdtKick s.now) { recordOp .wdtKick .none s with wdtLast := s.now }

/-- Phase ITER_START: kick, then the branch by MODE and the FIFO (R160). -/
def iterStart (s : State) : State :=
  let s := kickWatchdog (recordOp .loopIter .none s)
  { s with
    loopPhase :=
      match s.mode with
      | .transmit => .txBranch
      | .receive => if 1 ≤ hostAvail s then .rxCmd else .rxDrain }

/-- Phase TX_BRANCH: the guard check, then the scan unless the guard fired (R160). TX.SCAN is enabled
only with MODE = 1 (R143), so in Receive there is no step (log entry 11). -/
def txBranch (s : State) : Result :=
  if guardFires s then .next { checkGuard s with loopPhase := .iterStart }
  else if s.mode = .transmit then scan (checkGuard s)
  else .next s

/-- One atomic step of agent L by LOOP_PHASE (R160). -/
def agentLStep (q : DrainDraw) (s : State) : Result :=
  match s.loopPhase with
  | .iterStart => .next (iterStart s)
  | .txBranch => txBranch s
  | .rxCmd => collectorStep s
  | .rxDrain => drainStep q s

/-- MODE.ENTER_TX (R151). -/
def execModeEnterTx (s : State) : Result := .next (enterTx s)

/-- MODE.ENTER_RX (R153). -/
def execModeEnterRx (s : State) : Result := .next (enterRx s)

/-- GUARD.CHECK (R155). -/
def execGuardCheck (s : State) : Result := .next (checkGuard s)

/-- WDT.KICK (R158). -/
def execWdtKick (s : State) : Result := .next (kickWatchdog s)

/-- LOOP.ITER: one atomic step of the iteration (R160); `q` holds the draws of a drain's step. -/
def execLoopIter (q : DrainDraw) (s : State) : Result := agentLStep q s

end Sys2Proof.Machine
end

