-- ==== Sys2Proof/Machine/Frames.lean ====
section
/-! DEFINITION. The FRAME9 rows: a whole host frame. Its bytes arrive in the HostLink FIFO one by one (R41), and where agent L
would take that very frame next it does, by its own steps (R160), with no other agent's step in between (log entry 14). -/

namespace Sys2Proof.Machine

/-- n steps of agent L. None of those that a frame asks for is a drain's, so the draws are not read. -/
def agentLSteps : Nat → State → Result
  | 0, s => .next s
  | n + 1, s => andThen (agentLStep ⟨false, false⟩ s) (agentLSteps n)

/-- Agent L takes the n steps in which it reads a frame, with the iteration start first where an iteration is about to start
(R160). -/
def takeFrame (n : Nat) (s : State) : Result := agentLSteps (if s.loopPhase = .iterStart then n + 1 else n) s

/-- The next bytes to arrive are those of the next Receive-mode command: no byte waits, and agent L is at an iteration start or
about to collect (R127, R160). -/
def atReceiveCommand (s : State) : Bool :=
  s.mode == .receive && (s.loopPhase == .iterStart || s.loopPhase == .rxCmd) && s.rxcState == .idle && s.hostIn.isEmpty

/-- The next bytes to arrive are the next chunk, if one chunk can hold them: no byte waits, agent L is at an iteration start or
about to scan in Transmit mode with no delimiter byte matched, and CHUNK_MAX is at least 9 (R72, R143, R144). -/
def atTransmitFrame (s : State) : Bool :=
  s.mode == .transmit && (s.loopPhase == .iterStart || s.loopPhase == .txBranch) && !guardFires s && s.dlmCnt == 0 &&
    s.hostIn.isEmpty &&
    (match s.cfg.chunkMax with
     | none => true
     | some k => decide (9 ≤ k))

/-- A Receive-mode frame: one ENV.HOST_BYTE for each byte, at the FIFO's tail (R41). Where they are the next command's bytes
agent L takes them (R87): its start step, one step per header byte, the parameter step where the selector has parameters. The
history gains the entries of exactly these steps, one ENV.HOST_BYTE per byte first, whether the frame is taken or waits (log
entry 14). -/
def takeReceiveFrame (r : Request) (steps : Nat) (s : State) : Result :=
  let t := hostAppendAll r.bytes s
  if atReceiveCommand s then takeFrame steps t else .next t

/-- A Transmit-mode frame: one ENV.HOST_BYTE for each byte, at the FIFO's tail (R41). Where no byte waits before them they are
the chunk that agent L's next scan takes (R87, R144, R145); where some do, a later scan takes them all in order. The history
gains the entries of exactly these steps (log entry 14). -/
def takeTransmitFrame (r : Request) (s : State) : Result :=
  let t := hostAppendAll r.bytes s
  if atTransmitFrame s then takeFrame 1 t else .next t

/-- DELIM 01 in Receive mode (R68, R134): start, 9 header bytes. -/
def execFramePttDown (pre : BitVec 64) (s : State) : Result :=
  takeReceiveFrame (rxFrameRequest pre 1 []) 10 s

/-- DELIM 03 and 17 parameter bytes in Receive mode (R69, R136): start, 9 header bytes, parameters. -/
def execFrameTuneTo (pre : BitVec 64) (p : TuneParams) (s : State) : Result :=
  takeReceiveFrame (rxFrameRequest pre 3 p.bytes) 11 s

/-- DELIM 04 and 3 parameter bytes in Receive mode (R70, R138): start, 9 header bytes, parameters. -/
def execFrameFilters (pre : BitVec 64) (p : FilterParams) (s : State) : Result :=
  takeReceiveFrame (rxFrameRequest pre 4 p.bytes) 11 s

/-- Any other selector in Receive mode (R75, R139): start, 9 header bytes. -/
def execFrameIgnore (pre : BitVec 64) (sel : Byte) (s : State) : Result :=
  takeReceiveFrame (rxFrameRequest pre sel []) 10 s

/-- DELIM 02 in Transmit mode (R72, R145). -/
def execFramePttUp (s : State) : Result :=
  takeTransmitFrame (txFrameRequest pttUpSelector) s

/-- DELIM and any other selector in Transmit mode (R76, R146): the 8 delimiter bytes are ingested (R147). -/
def execFrameTxIgnore (sel : Byte) (s : State) : Result :=
  takeTransmitFrame (txFrameRequest sel) s

end Sys2Proof.Machine
end

