-- ==== Sys2Proof/Machine/Sampler.lean ====
section
/-! DEFINITION. The periodic timer and the sample-strobe handler (40_sampler.md): TIMER.STROBE, TICK, TICK.RX, TICK.TX. -/

namespace Sys2Proof.Machine

/-- The Receive-mode path of the handler (R94, R95). -/
def tickRxPath (d : SampleRead) (s : State) : Result :=
  let s := recordOp .tickRx .none s
  match d with
  | .fault => .next (raiseEvent .sampleFault (.count s.rxTail) s)
  | .value v => andThen (writeSlot .rxBuf s.rxTail v s) fun s => .next { s with rxTail := (s.rxTail + 1) % s.cfg.cRx }

/-- The index TICK.TX reads (R96, R97). -/
def tickIndex (s : State) : Nat := playIndex s.now s.txPlayStart s.txPlayEnd (playingLen s)

/-- The Transmit-mode path of the handler (R96, R98): outside the window no write occurs. -/
def tickTxPath (s : State) : Result :=
  let s := recordOp .tickTx .none s
  if windowOpen s then
    match readSlot s (playingBuffer s) (tickIndex s) with
    | some v => .next (emit (.sampleWr s.now v) { s with sampleOut := v })
    | none => .fault (.arrayIndex (playingBuffer s) (tickIndex s))
  else .next s

/-- TIMER.STROBE (R89, R170): before TMR_NEXT there is no such step (log entry 11). -/
def execTimerStrobe (s : State) : Result :=
  if strobeDue s then
    let s := recordOp .timerStrobe .none s
    let s := if s.tickPending then raiseEvent .tickCoalesced (.time s.tmrNext) s else s
    .next { s with tickPending := true, tmrNext := s.tmrNext + BitVec.ofNat 64 s.cfg.tickPeriodUs }
  else .next s

/-- TICK: the one interrupt, entry and return in one atomic step; it saves and restores nothing (R92, R178 to R181).
With the latch clear "it is never enabled": no step (log entry 11). -/
def execTick (d : SampleRead) (s : State) : Result :=
  if s.tickPending then
    let s := { recordOp .tick .none s with tickPending := false }
    match s.mode with
    | .receive => tickRxPath d s
    | .transmit => tickTxPath s
  else .next s

/-- TICK.RX on its own: reached only with MODE = 0, so in Transmit there is no such step (R94, R102; log entry 11). -/
def execTickRx (d : SampleRead) (s : State) : Result :=
  match s.mode with
  | .receive => tickRxPath d s
  | .transmit => .next s

/-- TICK.TX on its own: reached only with MODE = 1, so in Receive there is no such step (R96, R102; log entry 11). -/
def execTickTx (s : State) : Result :=
  match s.mode with
  | .receive => .next s
  | .transmit => tickTxPath s

end Sys2Proof.Machine
end

