-- ==== Sys2Proof/Machine/Dispatch.lean ====
section
/-! DEFINITION. One arm per row of spec/opcode_table.json. -/

namespace Sys2Proof.Machine

def exec (i : Instr) (s : State) : Host.Outcome State Fault Refusal :=
  match i with
  | .timerStrobe => Sys2Proof.Machine.execTimerStrobe s
  | .tick d => Sys2Proof.Machine.execTick d s
  | .tickRx d => Sys2Proof.Machine.execTickRx d s
  | .tickTx => Sys2Proof.Machine.execTickTx s
  | .rxDrain q => Sys2Proof.Machine.execRxDrain q s
  | .rxCmd => Sys2Proof.Machine.execRxCmd s
  | .cmdPttDown => Sys2Proof.Machine.execCmdPttDown s
  | .cmdTuneTo => Sys2Proof.Machine.execCmdTuneTo s
  | .cmdFilters => Sys2Proof.Machine.execCmdFilters s
  | .cmdIgnore => Sys2Proof.Machine.execCmdIgnore s
  | .cmdAbandon => Sys2Proof.Machine.execCmdAbandon s
  | .txScan => Sys2Proof.Machine.execTxScan s
  | .txIngest p => Sys2Proof.Machine.execTxIngest p s
  | .txSwap => Sys2Proof.Machine.execTxSwap s
  | .cmdPttUp => Sys2Proof.Machine.execCmdPttUp s
  | .cmdTxIgnore b => Sys2Proof.Machine.execCmdTxIgnore b s
  | .modeEnterTx => Sys2Proof.Machine.execModeEnterTx s
  | .modeEnterRx => Sys2Proof.Machine.execModeEnterRx s
  | .guardCheck => Sys2Proof.Machine.execGuardCheck s
  | .wdtKick => Sys2Proof.Machine.execWdtKick s
  | .loopIter q => Sys2Proof.Machine.execLoopIter q s
  | .reset d => Sys2Proof.Machine.execReset d s
  | .envTime d => Sys2Proof.Machine.execEnvTime d s
  | .envHostByte b => Sys2Proof.Machine.execEnvHostByte b s
  | .envWdtExpire d => Sys2Proof.Machine.execEnvWdtExpire d s
  | .framePttDown pre => Sys2Proof.Machine.execFramePttDown pre s
  | .frameTuneTo pre p => Sys2Proof.Machine.execFrameTuneTo pre p s
  | .frameFilters pre p => Sys2Proof.Machine.execFrameFilters pre p s
  | .frameIgnore pre sel => Sys2Proof.Machine.execFrameIgnore pre sel s
  | .framePttUp => Sys2Proof.Machine.execFramePttUp s
  | .frameTxIgnore sel => Sys2Proof.Machine.execFrameTxIgnore sel s

end Sys2Proof.Machine
end

