-- ==== Sys2Proof/Machine/Schedule.lean ====
section
/-! DEFINITION. Which operation the next step runs (R62, R182): the watchdog first, then the timer, then the script's next line,
then a free choice among the enabled steps. And what the state must hold for a given operation to be that one (log entry
8). -/

namespace Sys2Proof.Machine

/-! ### The free choice -/

/-- An advance that the environment can make, for any drawn number: the number itself where it is one, else folded into
1 .. 2^64 - 1 - NOW (R40; log entry 18). -/
def legalAdvance (now : Time) (d : Nat) : Time :=
  let room := 2 ^ 64 - 1 - now.toNat
  if 1 ≤ d ∧ d ≤ room then BitVec.ofNat 64 d else BitVec.ofNat 64 (1 + d % room)

/-- The environment can still advance NOW. -/
def timeLeft (s : State) : Bool := decide (s.now.toNat < 2 ^ 64 - 1)

/-- The steps enabled besides the watchdog's and the timer's, each with the draws numbered `s.draws` (R62, R182): a host byte
always, a time advance, a TICK when one is pending, agent L's step when it has one. -/
def freeSteps (s : State) : List Instr :=
  [Instr.envHostByte (Config.freeHostByte s.draws)]
    ++ (if timeLeft s then [Instr.envTime (legalAdvance s.now (Config.freeAdvance s.draws))] else [])
    ++ (if s.tickPending then [Instr.tick (Config.freeSample s.draws)] else [])
    ++ (if agentLEnabled s then [Instr.loopIter ⟨Config.freeSquelch s.draws, Config.freeApart s.draws⟩] else [])

/-- The free choice of the execution: any of the enabled steps (R62, I24; log entry 7). -/
def freeStep (s : State) : Instr :=
  (freeSteps s).getD (Config.freeSchedule s.draws % (freeSteps s).length)
    (.envHostByte (Config.freeHostByte s.draws))

/-- One more free choice made. -/
def nextDraw (s : State) : State := { s with draws := s.draws + 1 }

/-! ### The script -/

/-- The script without its first line. -/
def popScript (s : State) : State := { s with script := s.script.tail }

/-- The instruction of the script's first line. -/
def scriptHead (s : State) : Option (Except DecodeError Instr) := s.script.head?.map decode

/-- The draws of a watchdog reset: those of the script's line if it is one, else free. -/
def chooseExpiry (s : State) : Instr × State :=
  match scriptHead s with
  | some (.ok (.envWdtExpire d)) => (.envWdtExpire d, popScript s)
  | _ => (.envWdtExpire (Config.freeReset s.draws), nextDraw s)

/-- The timer's step; a script's line that asks for it is used up. -/
def chooseStrobe (s : State) : Instr × State :=
  match scriptHead s with
  | some (.ok .timerStrobe) => (.timerStrobe, popScript s)
  | _ => (.timerStrobe, s)

/-- The next operation and the state it runs on (R182): ENV.WDT_EXPIRE before any other step, then TIMER.STROBE, then the
script, then the free choice. -/
def nextInstr (s : State) : Except Refusal (Instr × State) :=
  if watchdogDue s then .ok (chooseExpiry s)
  else if strobeDue s then .ok (chooseStrobe s)
  else
    match scriptHead s with
    | some (.ok i) => .ok (i, popScript s)
    | some (.error e) => .error (.undecodable e)
    | none => .ok (freeStep s, nextDraw s)

/-! ### Making an operation the next one -/

/-- MODE = Receive with the registers that go with it (R48). -/
def asReceive (s : State) : State :=
  if s.mode = .receive then s else { s with mode := .receive, txEn := false, guardValid := false, guardStart := 0 }

/-- RXC_PBUF after n parameter bytes of 0. -/
def zeroParams (n : Nat) : Mem := (List.range n).map fun i => (i, 0)

/-- MODE = Transmit with the registers that go with it (R48). -/
def asTransmit (s : State) : State :=
  if s.mode = .transmit ∧ guardFires s = false then s
  else { s with mode := .transmit, txEn := true, guardValid := true, guardStart := s.now }

/-- The state with what an operation's enabling condition needs (log entry 8). -/
def enable (i : Instr) (s : State) : State :=
  match i with
  | .timerStrobe => if strobeDue s then s else { s with tmrNext := s.now }
  | .tick _ => { s with tickPending := true }
  | .tickRx _ | .cmdPttDown | .cmdIgnore => asReceive s
  | .cmdTuneTo => if paramsStored 17 s then asReceive s else { asReceive s with rxcPbuf := zeroParams 17 }
  | .cmdFilters => if paramsStored 3 s then asReceive s else { asReceive s with rxcPbuf := zeroParams 3 }
  | .tickTx | .cmdPttUp | .cmdTxIgnore _ => asTransmit s
  | .rxDrain _ => if drainEnabled s then s else { asReceive s with loopPhase := .rxDrain, drActive := false }
  | .rxCmd => if collectorEnabled s then s else { s with loopPhase := .rxCmd, rxcState := .idle }
  | .cmdAbandon =>
    if abandonEnabled s then s
    else { s with rxcState := .param, hostIn := [], rxcT0 := s.now - BitVec.ofNat 64 s.cfg.paramTimeoutUs }
  | .txScan => { asTransmit s with loopPhase := .txBranch }
  | .loopIter _ => if agentLEnabled s then s else { s with loopPhase := .iterStart }
  | .envWdtExpire _ =>
    if watchdogDue s then s else { s with wdtLast := s.now - BitVec.ofNat 64 s.cfg.wdtTimeoutUs }
  | .framePttDown _ | .frameTuneTo _ _ | .frameFilters _ _ | .frameIgnore _ _ =>
    if atReceiveCommand s then s
    else { asReceive s with loopPhase := .iterStart, rxcState := .idle, drActive := false, hostIn := [] }
  | .framePttUp | .frameTxIgnore _ =>
    if atTransmitFrame s then s
    else { asTransmit s with loopPhase := .iterStart, rxcState := .idle, drActive := false, dlmCnt := 0, hostIn := [] }
  | .txIngest _ | .txSwap | .modeEnterTx | .modeEnterRx | .guardCheck | .wdtKick | .reset _ | .envTime _
  | .envHostByte _ => s

/-- The state with no watchdog expiry due (R182). -/
def quietWatchdog (s : State) : State := if watchdogDue s then { s with wdtLast := s.now } else s

/-- The state with no strobe due (R182). -/
def quietTimer (s : State) : State :=
  if strobeDue s then { s with tmrNext := s.now + BitVec.ofNat 64 s.cfg.tickPeriodUs } else s

/-- Nothing goes before the script, unless the operation is itself the watchdog's or the timer's step. -/
def quietFor (i : Instr) (s : State) : State :=
  match i with
  | .envWdtExpire _ => s
  | .timerStrobe => quietWatchdog s
  | _ => quietTimer (quietWatchdog s)

/-- The state whose next step runs what the request decodes to: the request is the script's first line, and the state holds
what that operation needs. A request that decodes to nothing is refused by the next step (R82). -/
def placeRequest (r : Request) (s : State) : State :=
  match decode r with
  | .ok i => enable i (quietFor i { s with script := r :: s.script })
  | .error _ => quietTimer (quietWatchdog { s with script := r :: s.script })

end Sys2Proof.Machine
end

