-- ==== Sys2Proof/Machine/Step.lean ====
section
/-! DEFINITION. One step of the machine: the next operation (Machine/Schedule.lean), run by `exec`. -/

namespace Sys2Proof.Machine

/-- One atomic step of the execution (R62, R182). -/
def step (s : State) : Host.Outcome State Fault Refusal :=
  match nextInstr s with
  | .ok (i, t) => exec i t
  | .error e => .refused e

/-- The state whose very next step runs the instruction of an opcode table word (log entry 8). -/
def State.withFetchWord (s : State) (nbits w : Nat) : State := placeRequest (requestOfTableWord nbits w) s

end Sys2Proof.Machine
end

