-- ==== Sys2Proof/Safety.lean ====
section
/-! DEFINITION. The terms the claims are stated in: the state without its history, the error events of the history, what it is
for an instruction to complete, runs of instructions, and the invariants of the machine (R48, R49, R98). -/

namespace Sys2Proof.Machine

/-- The state without the observation channel that no part of the block reads (R167). -/
def unlogged (s : State) : State := { s with history := [] }

/-- An entry that a raise made, not an operation (R167). -/
def Entry.isEvent (e : Entry) : Bool :=
  match e.kind with
  | .event _ => true
  | .op _ => false
  | .emit _ => false

/-- The error events of the history, in order (R176). -/
def errorEvents (s : State) : List Entry := s.history.filter Entry.isEvent

/-- The values that history entries say were handed to the output streams, in order (R44). -/
def emissions (h : List Entry) : List Emission :=
  h.filterMap fun e =>
    match e.kind with
    | .emit x => some x
    | .op _ => none
    | .event _ => none

/-- What one emission adds to HOST_OUT. -/
def Emission.hostBytes : Emission → List Byte
  | .hostOut bs => bs
  | .radio _ | .sampleWr _ _ | .wdtKick _ => []

/-- What one emission adds to RADIO. -/
def Emission.requests : Emission → List RadioRequest
  | .radio r => [r]
  | .hostOut _ | .sampleWr _ _ | .wdtKick _ => []

/-- What one emission adds to SAMPLE_WR. -/
def Emission.samples : Emission → List (Time × Byte)
  | .sampleWr t b => [(t, b)]
  | .hostOut _ | .radio _ | .wdtKick _ => []

/-- What one emission adds to WDT_KICK. -/
def Emission.kicks : Emission → List Time
  | .wdtKick t => [t]
  | .hostOut _ | .radio _ | .sampleWr _ _ => []

/-- `exec i s` answers a next state that is `u` but for the history, in which it raised exactly the events `ev`, all at the
NOW of `s`. -/
def CompletesWith (i : Instr) (s u : State) (ev : List (EventCode × Info)) : Prop :=
  ∃ t, exec i s = .next t ∧ unlogged t = unlogged u ∧
    errorEvents t = errorEvents s ++ ev.map fun e => ⟨s.now, .event e.1, e.2⟩

/-- The state after the kick with which R160 starts an iteration, where one is about to start. -/
def kickedFirst (s : State) : State :=
  if s.loopPhase = .iterStart then { s with wdtLast := s.now, wdtKick := s.wdtKick ++ [s.now] } else s

/-- Run instructions one after the other, stopping at the first stop. -/
def runInstrs : List Instr → State → Result
  | [], s => .next s
  | i :: is, s => andThen (exec i s) (runInstrs is)

/-- Every array has its canonical form. -/
def ArraysWf (s : State) : Prop := ∀ a, memWf (capacity s.cfg a) (getArray s a) = true

/-- The register value invariants of R48 for every parameter choice of 00_scope.md section 3, with the two facts about agent
L's phases that they rest on (a command is collected only in phase RX_CMD, a drain is in flight only in phase RX_DRAIN)
and the canonical form of the arrays. -/
structure Inv (s : State) : Prop where
  cfgValid : s.cfg.valid = true
  rxHead_lt : s.rxHead < s.cfg.cRx
  rxTail_lt : s.rxTail < s.cfg.cRx
  txLenA_le : s.txLenA ≤ s.cfg.cTx
  txLenB_le : s.txLenB ≤ s.cfg.cTx
  filling_lt : fillingLen s < s.cfg.cTx - s.cfg.mTx
  dlmCnt_le : s.dlmCnt ≤ 8
  rxcCnt_le : s.rxcCnt ≤ 8
  rxcCnt_zero : s.rxcState ≠ .hdr → s.rxcCnt = 0
  guard_iff : s.guardValid = true ↔ s.mode = .transmit
  guardStart_zero : s.guardValid = false → s.guardStart = 0
  txEn_iff : s.txEn = true ↔ s.mode = .transmit
  collecting : s.rxcState ≠ .idle → s.loopPhase = .rxCmd
  draining : s.drActive = true → s.loopPhase = .rxDrain ∧ s.drI ≤ s.drN ∧ s.drN < s.cfg.cRx ∧
    s.drSnap < s.cfg.cRx ∧ ((s.rxHead + s.drN) % s.cfg.cRx = s.drSnap ∨ s.drI = s.drN ∧ s.rxHead = s.drSnap)
  arrays : ArraysWf s

/-- None of the four registers that record a past time is ahead of NOW (R98 for TX_PLAY_START; the others likewise, for NOW never
decreases, R40). -/
structure TimesPast (s : State) : Prop where
  playStart : s.txPlayStart ≤ s.now
  guardStart : s.guardStart ≤ s.now
  paramStart : s.rxcT0 ≤ s.now
  lastKick : s.wdtLast ≤ s.now

/-- Slot i of the array has been written since the last reset. -/
def written (s : State) (a : ArrayName) (i : Nat) : Prop := memRead (getArray s a) i ≠ none

/-- Every slot the block can come to read has been written since the last reset (R49): the unsent window, the window of a
drain in flight and the one behind it, the scratch bytes copied so far, and both Tx buffers below their lengths.
RXC_PBUF has no clause: the parameter step writes its slots before it reads them, and a command run alone tests them (log
entry 24). -/
structure ReadableWritten (s : State) : Prop where
  unsent : ∀ k, k < unsentCount s → written s .rxBuf ((s.rxHead + k) % s.cfg.cRx)
  inFlight : s.drActive = true → ∀ k, k < s.drN → written s .rxBuf ((s.drSnap + (s.cfg.cRx - s.drN) + k) % s.cfg.cRx)
  behind : s.drActive = true → ∀ k, k < subMod s.rxTail s.drSnap s.cfg.cRx →
    written s .rxBuf ((s.drSnap + k) % s.cfg.cRx)
  copied : s.drActive = true → ∀ i, i < s.drI → written s .scratch i
  bufferA : ∀ i, i < s.txLenA → written s .txBufA i
  bufferB : ∀ i, i < s.txLenB → written s .txBufB i

/-- The steps that an agent, the timer or the environment takes of its own (R20, R62, R182); every other instruction is an
operation that one of these calls (R80), or a whole frame or RESET asked for by a script. -/
def ownStep : Instr → Bool
  | .timerStrobe | .tick _ | .loopIter _ | .envTime _ | .envHostByte _ | .envWdtExpire _ => true
  | .tickRx _ | .tickTx | .rxDrain _ | .rxCmd | .cmdPttDown | .cmdTuneTo | .cmdFilters | .cmdIgnore | .cmdAbandon
  | .txScan | .txIngest _ | .txSwap | .cmdPttUp | .cmdTxIgnore _ | .modeEnterTx | .modeEnterRx | .guardCheck | .wdtKick
  | .reset _ | .framePttDown _ | .frameTuneTo _ _ | .frameFilters _ _ | .frameIgnore _ _ | .framePttUp
  | .frameTxIgnore _ => false

/-- Agent L's phase fits the mode: the two parts of R160's iteration belong to one mode each. Every own step keeps it; a
script that runs a called operation out of its caller can break it (log entry 10). -/
def PhaseFitsMode (s : State) : Prop :=
  (s.loopPhase = .txBranch → s.mode = .transmit) ∧
  (s.loopPhase = .rxCmd ∨ s.loopPhase = .rxDrain → s.mode = .receive)

/-- Two outcomes that differ in nothing but the history. -/
def SameButHistory : Result → Result → Prop
  | .next s, .next t => unlogged s = unlogged t
  | .fault e, .fault e' => e = e'
  | .refused e, .refused e' => e = e'
  | _, _ => False

/-- The loop of TX.SCAN's pseudocode as R143 writes it, with its variables: the bytes left, DLM_CNT, the payload P so far
and the ignored selectors so far. -/
def scanLoop : List Byte → Nat → List Byte → List Byte → ScanResult
  | [], c, p, ig => ⟨c, p, ig, false⟩
  | b :: bs, c, p, ig =>
    if c = 8 then
      if b = 0x02 then ⟨0, p, ig, true⟩ else scanLoop bs 0 p (ig ++ [b])
    else scanLoop bs (if Config.delim[c]? = some b then c + 1 else 0) (p ++ [b]) ig

end Sys2Proof.Machine
end

