-- ==== Sys2Proof/Certificates/Slice0/Obligations.lean ====
section
/-! DEFINITION. The statements for the provers. `CompletesWith i s u ev` (Safety.lean) says that `exec i s` answers a next state
equal to `u` but for the history, and that the error events raised are exactly `ev`: so it is a result, a frame and a
completion at once. -/

open Sys2Proof Sys2Proof.Machine

/-! ### Periodic timer and handler (40_sampler.md) -/

/-- R89: at or past TMR_NEXT the strobe sets the latch, adds the period, and raises E_TICK_COALESCED exactly when the latch
was already set. -/
def Obligations.TimerStrobeLatchesAndReloads : Prop :=
  ∀ s : State, s.tmrNext ≤ s.now →
    CompletesWith .timerStrobe s
      { s with tickPending := true, tmrNext := s.tmrNext + BitVec.ofNat 64 s.cfg.tickPeriodUs }
      (if s.tickPending then [(.tickCoalesced, .time s.tmrNext)] else [])

/-- R94, R95: TICK.RX stores the sample at RX_TAIL, advances the cursor modulo C_RX and changes nothing else; a FAULT makes
the run a no-op that records RX_TAIL, and of a whole TICK then only the latch changes. -/
def Obligations.TickRxStoresOneSampleOrNone : Prop :=
  ∀ (s : State) (v : Byte), s.mode = .receive →
    (s.rxTail < s.cfg.cRx →
      ∃ t, exec (.tickRx (.value v)) s = .next t ∧
        unlogged t = unlogged { s with rxTail := (s.rxTail + 1) % s.cfg.cRx, rxBuf := t.rxBuf } ∧
        (∀ i, slot t .rxBuf i = if i = s.rxTail then v else slot s .rxBuf i) ∧
        errorEvents t = errorEvents s) ∧
    CompletesWith (.tickRx .fault) s s [(.sampleFault, .count s.rxTail)] ∧
    (s.tickPending = true →
      CompletesWith (.tick .fault) s { s with tickPending := false } [(.sampleFault, .count s.rxTail)])

/-- R96, R97: inside the window TICK.TX drives the byte at ((t - START) * (L - 1)) div (END - START) of the playing buffer;
with nothing to play, before the window or at and after its end, it writes nothing. -/
def Obligations.TickTxEmitsOnlyInsideTheWindow : Prop :=
  ∀ s : State, s.mode = .transmit →
    let P := if s.txFillA then ArrayName.txBufB else ArrayName.txBufA
    let L := if s.txFillA then s.txLenB else s.txLenA
    let idx := ((s.now.toNat - s.txPlayStart.toNat) * (L - 1)) / (s.txPlayEnd.toNat - s.txPlayStart.toNat)
    (1 ≤ L → L ≤ s.cfg.cTx → s.txPlayStart ≤ s.now → s.now < s.txPlayEnd →
      CompletesWith .tickTx s
        { s with sampleOut := slot s P idx, sampleWr := s.sampleWr ++ [(s.now, slot s P idx)] } []) ∧
    (L = 0 ∨ s.now < s.txPlayStart ∨ s.txPlayEnd ≤ s.now → CompletesWith .tickTx s s [])

/-- R92: TICK clears the latch and runs the path of the MODE it reads, in one step; with the latch clear it is never enabled
(a request for it is then no step, which is the model's choice: log entry 11). -/
def Obligations.TickClearsLatchAndRunsThePathOfTheMode : Prop :=
  ∀ (s : State) (d : SampleRead),
    (s.tickPending = false → exec (.tick d) s = .next s) ∧
    (s.tickPending = true → s.mode = .receive → s.rxTail < s.cfg.cRx →
      ∃ t u, exec (.tick d) s = .next t ∧ exec (.tickRx d) { s with tickPending := false } = .next u ∧
        unlogged t = unlogged u ∧ errorEvents t = errorEvents u) ∧
    (s.tickPending = true → s.mode = .transmit → playingLen s ≤ s.cfg.cTx →
      ∃ t u, exec (.tick d) s = .next t ∧ exec .tickTx { s with tickPending := false } = .next u ∧
        unlogged t = unlogged u ∧ errorEvents t = errorEvents u)

/-- R99: whenever TICK.TX emits, the index is at most L - 1, and at most L - 2 for L >= 2. -/
def Obligations.EmittedIndexIsInsideTheFilledRange : Prop :=
  ∀ s : State, windowOpen s = true →
    tickIndex s ≤ playingLen s - 1 ∧ (2 ≤ playingLen s → tickIndex s ≤ playingLen s - 2)

/-! ### RX.DRAIN (41_rx_buffer.md) -/

/-- R105: the start step takes the snapshot and the count, or skips the iteration below DRAIN_MIN. -/
def Obligations.DrainStartSnapshotsOrSkips : Prop :=
  ∀ (s : State) (q : DrainDraw) (n : Nat),
    s.loopPhase = .rxDrain → s.drActive = false → s.mode = .receive → 0 < s.cfg.cRx →
    (n : Int) = ((s.rxTail : Int) - s.rxHead) % s.cfg.cRx →
    CompletesWith (.rxDrain q) s
      (if n < s.cfg.drainMin then { s with loopPhase := .iterStart }
       else { s with drSnap := s.rxTail, drN := n, drI := 0, drActive := true }) []

/-- R106: a copy step moves one byte from RXBUF at (RX_HEAD + DR_I) mod C_RX to SCRATCH at DR_I. -/
def Obligations.DrainCopiesOneByte : Prop :=
  ∀ (s : State) (q : DrainDraw), s.drActive = true → s.drI < s.drN → s.drI + 1 < s.cfg.cRx →
    ∃ t, exec (.rxDrain q) s = .next t ∧
      unlogged t = unlogged { s with drI := s.drI + 1, scratch := t.scratch } ∧
      slot t .scratch s.drI = slot s .rxBuf ((s.rxHead + s.drI) % s.cfg.cRx) ∧
      (∀ i, i ≠ s.drI → slot t .scratch i = slot s .scratch i) ∧
      errorEvents t = errorEvents s

/-- R108, R109, R110: the commit step sets RX_HEAD to the snapshot, replaces the scratch copy by SILENCE under squelch,
sends it in index order and ends the drain. R60: the head write can be a step apart before it, which writes RX_HEAD alone (that
a draw says whether it goes first is the model's choice, log entry 23). -/
def Obligations.DrainCommitGatesAndSends : Prop :=
  ∀ (s : State) (q : DrainDraw), s.drActive = true → s.drI = s.drN → s.drN < s.cfg.cRx →
    (q.apart = true → s.rxHead ≠ s.drSnap → CompletesWith (.rxDrain q) s { s with rxHead := s.drSnap } []) ∧
    (q.apart = false ∨ s.rxHead = s.drSnap →
      ∃ t, exec (.rxDrain q) s = .next t ∧
        unlogged t = unlogged
          { s with
            rxHead := s.drSnap
            drActive := false
            loopPhase := .iterStart
            scratch := t.scratch
            hostOut := s.hostOut ++
              if q.squelch then List.replicate s.drN s.cfg.silence else (List.range s.drN).map (slot s .scratch) } ∧
        (∀ i, slot t .scratch i = if q.squelch = true ∧ i < s.drN then s.cfg.silence else slot s .scratch i) ∧
        errorEvents t = errorEvents s)

/-- R105 to R110, R113: a drain with no tick during it sends exactly the unsent window in order (SILENCE for each byte under
squelch), leaves RXBUF as it is and the unsent count 0, whether the head write is one step with the send (R108) or a step apart
(R60; log entry 23). -/
def Obligations.UndisturbedDrainSendsTheUnsentWindow : Prop :=
  ∀ (s : State) (p q : DrainDraw) (last : List Instr), Inv s →
    s.loopPhase = .rxDrain → s.drActive = false → s.mode = .receive → s.cfg.drainMin ≤ unsentCount s →
    last = [.rxDrain ⟨q.squelch, false⟩] ∨ last = [.rxDrain ⟨p.squelch, true⟩, .rxDrain q] →
    ∃ t, runInstrs (List.replicate (unsentCount s + 1) (.rxDrain p) ++ last) s = .next t ∧
      unlogged t = unlogged
        { s with
          rxHead := s.rxTail
          drSnap := s.rxTail
          drN := unsentCount s
          drI := unsentCount s
          loopPhase := .iterStart
          scratch := t.scratch
          hostOut := s.hostOut ++
            if q.squelch then List.replicate (unsentCount s) s.cfg.silence
            else (List.range (unsentCount s)).map fun k => slot s .rxBuf ((s.rxHead + k) % s.cfg.cRx) } ∧
      unsentCount t = 0

/-- R112: storing N samples makes the unsent count (c0 + N) mod C_RX; up to C_RX of them stand in order behind the old tail. -/
def Obligations.StoredSamplesCountModuloCapacity : Prop :=
  ∀ (s : State) (vs : List Byte), Inv s → s.mode = .receive →
    ∃ t, runInstrs (vs.map fun v => Instr.tickRx (.value v)) s = .next t ∧
      unsentCount t = (unsentCount s + vs.length) % s.cfg.cRx ∧ t.rxHead = s.rxHead ∧
      (vs.length ≤ s.cfg.cRx →
        ∀ k, k < vs.length → slot t .rxBuf ((s.rxTail + k) % s.cfg.cRx) = vs.getD k 0) ∧
      errorEvents t = errorEvents s

/-! ### TX.INGEST and TX.SWAP (42_tx_engine.md) -/

/-- R118: TX.SWAP sets the window from the filled length, empties the other buffer's length and flips the roles. -/
def Obligations.SwapExchangesRoles : Prop :=
  ∀ s : State,
    let filled := if s.txFillA then s.txLenA else s.txLenB
    CompletesWith .txSwap s
      { s with
        txPlayStart := s.now
        txPlayEnd := s.now + BitVec.ofNat 64 (filled * 1000000 / s.cfg.sampleRateHz)
        txLenA := if s.txFillA then s.txLenA else 0
        txLenB := if s.txFillA then 0 else s.txLenB
        txFillA := !s.txFillA } []

/-- R116, R117, R119: TX.INGEST appends the first m bytes that fit, drops the rest with E_TX_DROP, and swaps exactly when the
filling length is then at least C_TX - M_TX. -/
def Obligations.IngestAppendsDropsAndSwaps : Prop :=
  ∀ (s : State) (p : List Byte),
    let F := if s.txFillA then ArrayName.txBufA else ArrayName.txBufB
    let O := if s.txFillA then ArrayName.txBufB else ArrayName.txBufA
    let len := if s.txFillA then s.txLenA else s.txLenB
    let m := min p.length (s.cfg.cTx - len)
    len ≤ s.cfg.cTx →
    ∃ t, exec (.txIngest p) s = .next t ∧
      unlogged t = unlogged
        (if len + m < s.cfg.cTx - s.cfg.mTx then
          { s with
            txLenA := if s.txFillA then len + m else s.txLenA
            txLenB := if s.txFillA then s.txLenB else len + m
            txBufA := t.txBufA
            txBufB := t.txBufB }
        else
          { s with
            txLenA := if s.txFillA then len + m else 0
            txLenB := if s.txFillA then 0 else len + m
            txFillA := !s.txFillA
            txPlayStart := s.now
            txPlayEnd := s.now + BitVec.ofNat 64 ((len + m) * 1000000 / s.cfg.sampleRateHz)
            txBufA := t.txBufA
            txBufB := t.txBufB }) ∧
      (∀ j, slot t F j = if len ≤ j ∧ j < len + m then p.getD (j - len) 0 else slot s F j) ∧
      (∀ j, slot t O j = slot s O j) ∧
      errorEvents t = errorEvents s ++
        if m < p.length then [⟨s.now, .event .txDrop, .count (p.length - m)⟩] else []

/-! ### The Receive-mode framer (43_framer.md section 1) -/

/-- R127: the start step of RX.CMD. -/
def Obligations.CollectorStartsAHeader : Prop :=
  ∀ s : State, s.loopPhase = .rxCmd → s.rxcState = .idle →
    CompletesWith .rxCmd s { s with rxcState := .hdr, rxcCnt := 0 } []

/-- R128, R129, R140: positions 0 .. 7 are consumed unread; the ninth byte is the selector, and 1, 3, 4 and every other
value act as the table says. -/
def Obligations.HeaderByteIsCountedOrDispatched : Prop :=
  ∀ (s : State) (b : Byte) (rest : List Byte), s.rxcState = .hdr → s.hostIn = b :: rest →
    (s.rxcCnt < 8 → CompletesWith .rxCmd s { s with hostIn := rest, rxcCnt := s.rxcCnt + 1 } []) ∧
    (s.rxcCnt = 8 → b = 1 →
      CompletesWith .rxCmd s
        { s with
          hostIn := rest, rxcSel := b, rxcCnt := 0, rxcState := .idle, loopPhase := .iterStart
          mode := .transmit, dbgInd := true, txEn := true, txLenA := 0, txLenB := 0, txFillA := true
          txPlayStart := s.now, txPlayEnd := s.now, dlmCnt := 0, guardValid := true, guardStart := s.now } []) ∧
    (s.rxcCnt = 8 → b = 3 ∨ b = 4 →
      CompletesWith .rxCmd s
        { s with hostIn := rest, rxcSel := b, rxcCnt := 0, rxcState := .param, rxcT0 := s.now } []) ∧
    (s.rxcCnt = 8 → b ≠ 1 → b ≠ 3 → b ≠ 4 →
      CompletesWith .rxCmd s
        { s with
          hostIn := rest, rxcSel := b, rxcCnt := 0, rxcState := .idle
          loopPhase := if s.mode = .receive then .rxDrain else .iterStart } [])

/-- R131, R136, R140: with 17 bytes available, whatever the time, TUNE_TO reads them, enters Receive and forwards the four
fields by position (by R131 and R136 where R49 bounds the slots by RXC_CNT: the model's choice, log entry 24). -/
def Obligations.TuneToCompletesWithItsParameters : Prop :=
  ∀ s : State, s.rxcState = .param → s.rxcSel = 3 → 17 ≤ s.hostIn.length →
    ∃ t, exec .rxCmd s = .next t ∧
      unlogged t = unlogged
        { s with
          hostIn := s.hostIn.drop 17
          rxcPbuf := t.rxcPbuf
          mode := .receive
          txEn := false
          guardValid := false
          guardStart := 0
          rxcState := .idle
          rxcCnt := 0
          loopPhase := .rxDrain
          radio := s.radio ++
            [.tune (s.hostIn.take 7) ((s.hostIn.drop 7).take 7) ((s.hostIn.drop 14).take 2) (s.hostIn.getD 16 0)] } ∧
      (∀ j, slot t .rxcPbuf j = if j < 17 then s.hostIn.getD j 0 else slot s .rxcPbuf j) ∧
      errorEvents t = errorEvents s

/-- R131, R138, R140: with 3 bytes available, whatever the time, FILTERS reads them and forwards flags and raw bytes; a flag
is 1 exactly for the byte 0x31 (by R131 and R138 where R49 bounds the slots by RXC_CNT: the model's choice, log entry 24). -/
def Obligations.FiltersCompletesWithItsParameters : Prop :=
  ∀ (s : State) (e h l : Byte) (rest : List Byte),
    s.rxcState = .param → s.rxcSel = 4 → s.hostIn = e :: h :: l :: rest →
    ∃ t, exec .rxCmd s = .next t ∧
      unlogged t = unlogged
        { s with
          hostIn := rest
          rxcPbuf := t.rxcPbuf
          rxcState := .idle
          rxcCnt := 0
          loopPhase := if s.mode = .receive then .rxDrain else .iterStart
          radio := s.radio ++
            [.filters (decide (e = 0x31)) (decide (h = 0x31)) (decide (l = 0x31)) [e, h, l]] } ∧
      (∀ j, slot t .rxcPbuf j = if j < 3 then s.hostIn.getD j 0 else slot s .rxcPbuf j) ∧
      errorEvents t = errorEvents s

/-- R131, R132, R140: short of N bytes and PARAM_TIMEOUT_US after RXC_T0 the command is abandoned: the partial bytes are
discarded, E_CMD_TIMEOUT records them, and nothing outside the collector and agent L's phase changes. -/
def Obligations.TimedOutCommandIsAbandoned : Prop :=
  ∀ s : State, s.rxcState = .param →
    s.hostIn.length < (if s.rxcSel = 3 then 17 else 3) → s.cfg.paramTimeoutUs ≤ (s.now - s.rxcT0).toNat →
    CompletesWith .rxCmd s
      { s with
        hostIn := [], rxcState := .idle, rxcCnt := 0
        loopPhase := if s.mode = .receive then .rxDrain else .iterStart }
      [(.cmdTimeout, .timeout s.rxcSel s.hostIn.length)] ∧
    CompletesWith .cmdAbandon s { s with hostIn := [] } [(.cmdTimeout, .timeout s.rxcSel s.hostIn.length)]

/-- R130, R131 (derived: that a hold is a step that changes nothing is the model's choice, log entry 11): with no header byte,
or short of N parameter bytes before the deadline, agent L's step changes nothing. The same holds of a request for a step that
its rule says is not enabled (R89, R94, R96, R105, R106, R127, R131, R143, R160, R187), and of CMD.TUNE_TO and CMD.FILTERS where a
parameter slot they would read is unwritten (R49) (log entry 11 too, and log entry 24 for which slots those are). -/
def Obligations.HeldCollectorChangesNothing : Prop :=
  ∀ (s : State) (q : DrainDraw),
    (s.loopPhase = .rxCmd →
      (s.rxcState = .hdr ∧ s.hostIn = [] ∨
        s.rxcState = .param ∧ s.hostIn.length < (if s.rxcSel = 3 then 17 else 3) ∧
          (s.now - s.rxcT0).toNat < s.cfg.paramTimeoutUs) →
      exec .rxCmd s = .next s ∧ exec (.loopIter q) s = .next s) ∧
    (s.now < s.tmrNext → exec .timerStrobe s = .next s) ∧
    (s.mode = .transmit → ∀ d, exec (.tickRx d) s = .next s) ∧
    (s.mode = .receive → exec .tickTx s = .next s) ∧
    (s.drActive = false → s.loopPhase ≠ .rxDrain ∨ s.mode = .transmit → exec (.rxDrain q) s = .next s) ∧
    (s.drActive = true → s.drN < s.drI → exec (.rxDrain q) s = .next s) ∧
    (s.rxcState = .idle → s.loopPhase ≠ .rxCmd → exec .rxCmd s = .next s) ∧
    (s.rxcState ≠ .param ∨ (if s.rxcSel = 3 then 17 else 3) ≤ s.hostIn.length ∨
        (s.now - s.rxcT0).toNat < s.cfg.paramTimeoutUs →
      exec .cmdAbandon s = .next s) ∧
    (s.loopPhase ≠ .txBranch ∨ s.mode = .receive ∨ guardFires s = true → exec .txScan s = .next s) ∧
    ((s.now - s.wdtLast).toNat < s.cfg.wdtTimeoutUs → ∀ d, exec (.envWdtExpire d) s = .next s) ∧
    (s.loopPhase = .txBranch → s.mode = .receive → guardFires s = false → exec (.loopIter q) s = .next s) ∧
    (s.mode = .receive → ∀ i, i < 17 → ¬written s .rxcPbuf i → exec .cmdTuneTo s = .next s) ∧
    (s.mode = .receive → ∀ i, i < 3 → ¬written s .rxcPbuf i → exec .cmdFilters s = .next s)

/-- R134, R151: CMD.PTT_DOWN performs MODE.ENTER_TX. -/
def Obligations.PttDownEntersTransmit : Prop :=
  ∀ s : State, s.mode = .receive →
    CompletesWith .cmdPttDown s
      { s with
        mode := .transmit, dbgInd := true, txEn := true, txLenA := 0, txLenB := 0, txFillA := true
        txPlayStart := s.now, txPlayEnd := s.now, dlmCnt := 0, guardValid := true, guardStart := s.now } []

/-- R136, R138: CMD.TUNE_TO takes its fields from RXC_PBUF by position, enters Receive, then emits the request; CMD.FILTERS
gives flag 1 exactly for 0x31 and forwards the raw bytes beside the flags. Each reads only slots that have been written since
the reset, as R49 says of every operation; HeldCollectorChangesNothing says what happens otherwise. That they read R136's and
R138's slots, where R49 bounds them by RXC_CNT, is the model's choice (log entry 24). -/
def Obligations.CollectedParametersAreForwarded : Prop :=
  ∀ s : State, s.mode = .receive →
    let raw := fun i => slot s .rxcPbuf i
    let field := fun (i n : Nat) => (List.range n).map fun k => raw (i + k)
    ((∀ i, i < 17 → written s .rxcPbuf i) →
      CompletesWith .cmdTuneTo s
        { s with
          mode := .receive, txEn := false, guardValid := false, guardStart := 0
          radio := s.radio ++ [.tune (field 0 7) (field 7 7) (field 14 2) (raw 16)] } []) ∧
    ((∀ i, i < 3 → written s .rxcPbuf i) →
      CompletesWith .cmdFilters s
        { s with
          radio := s.radio ++
            [.filters (decide (raw 0 = 0x31)) (decide (raw 1 = 0x31)) (decide (raw 2 = 0x31)) [raw 0, raw 1, raw 2]] } [])

/-- R139, R146: CMD.IGNORE in Receive and CMD.TX_IGNORE in Transmit change no register and raise no event; each leaves its
history entry with the selector. -/
def Obligations.IgnoredCommandsChangeNothing : Prop :=
  ∀ (s : State) (b : Byte),
    (s.mode = .receive →
      exec .cmdIgnore s = .next { s with history := s.history ++ [⟨s.now, .op .cmdIgnore, .byte s.rxcSel⟩] }) ∧
    (s.mode = .transmit →
      exec (.cmdTxIgnore b) s = .next { s with history := s.history ++ [⟨s.now, .op .cmdTxIgnore, .byte b⟩] })

/-! ### The Transmit-mode framer (43_framer.md section 2) -/

/-- R143, R144, R145: TX.SCAN takes min(HostAvail, CHUNK_MAX) bytes; with none it ends the iteration; at PTT_UP it enters
Receive and ingests nothing; otherwise it ingests the payload if there is any. -/
def Obligations.ScanTakesOneChunk : Prop :=
  ∀ s : State, s.loopPhase = .txBranch → s.mode = .transmit → guardFires s = false →
    let k := match s.cfg.chunkMax with
      | none => s.hostIn.length
      | some m => min s.hostIn.length m
    let r := scanLoop (s.hostIn.take k) s.dlmCnt [] []
    let s0 := { s with hostIn := s.hostIn.drop k, dlmCnt := r.dlmCnt }
    (k = 0 → CompletesWith .txScan s { s with loopPhase := .iterStart } []) ∧
    (k ≠ 0 → r.pttUp = true →
      CompletesWith .txScan s
        { s0 with mode := .receive, txEn := false, guardValid := false, guardStart := 0, loopPhase := .iterStart }
        []) ∧
    (k ≠ 0 → r.pttUp = false → r.payload = [] → CompletesWith .txScan s { s0 with loopPhase := .iterStart } []) ∧
    (k ≠ 0 → r.pttUp = false → r.payload ≠ [] → fillingLen s ≤ s.cfg.cTx →
      ∃ t u, exec .txScan s = .next t ∧ exec (.txIngest r.payload) s0 = .next u ∧
        unlogged t = unlogged { u with loopPhase := .iterStart } ∧ errorEvents t = errorEvents u)

/-- R149: from no partial match DLM_CNT reaches 8 only when the 8 most recent non-selector bytes are the delimiter; a byte
that does not match resets it to 0 from any partial count; the converse fails on the stream of R142. -/
def Obligations.DelimiterIsMatchedOnlyAfterTheDelimiter : Prop :=
  (∀ bs : List Byte, (scanBytes 0 bs).pttUp = false → (scanBytes 0 bs).dlmCnt = 8 →
    ∃ before, (scanBytes 0 bs).payload = before ++ [0xFF, 0x00, 0xFF, 0x00, 0xFF, 0x00, 0xFF, 0x00]) ∧
  (∀ (c : Nat) (b : Byte), c < 8 →
    b ≠ ([0xFF, 0x00, 0xFF, 0x00, 0xFF, 0x00, 0xFF, 0x00] : List Byte).getD c 0 → (scanBytes c [b]).dlmCnt = 0) ∧
  (scanBytes 0 [0xFF, 0x00, 0xFF, 0x00, 0xFF, 0x00, 0xFF, 0xFF, 0x00, 0xFF, 0x00, 0xFF, 0x00, 0xFF, 0x00]).dlmCnt = 6

/-- R145, R153: CMD.PTT_UP performs MODE.ENTER_RX. Outside its mode a command is ignored with the history entry the spec gives
(R139 for PTT_UP in Receive; R134, R137, R146 for PTT_DOWN, TUNE_TO and FILTERS in Transmit), also when a script calls it
alone (log entry 10). -/
def Obligations.PttUpEntersReceive : Prop :=
  ∀ s : State,
    (s.mode = .transmit →
      CompletesWith .cmdPttUp s
        { s with mode := .receive, txEn := false, guardValid := false, guardStart := 0 } []) ∧
    (s.mode = .receive →
      exec .cmdPttUp s = .next { s with history := s.history ++ [⟨s.now, .op .cmdIgnore, .byte 2⟩] } ∧
      ∀ b, exec (.cmdTxIgnore b) s = .next { s with history := s.history ++ [⟨s.now, .op .cmdTxIgnore, .byte b⟩] }) ∧
    (s.mode = .transmit →
      exec .cmdPttDown s = .next { s with history := s.history ++ [⟨s.now, .op .cmdTxIgnore, .byte 1⟩] } ∧
      exec .cmdTuneTo s = .next { s with history := s.history ++ [⟨s.now, .op .cmdTxIgnore, .byte 3⟩] } ∧
      exec .cmdFilters s = .next { s with history := s.history ++ [⟨s.now, .op .cmdTxIgnore, .byte 4⟩] } ∧
      exec .cmdIgnore s = .next { s with history := s.history ++ [⟨s.now, .op .cmdIgnore, .byte s.rxcSel⟩] })

/-! ### Whole frames (opcode table FRAME9 rows; that their bytes arrive and agent L takes them in one go is the model's choice,
log entry 14; TUNE_TO and FILTERS read R131's slots by log entry 24). With the FIFO empty the frame's bytes are the next that
agent L reads; at an iteration start the kick of R160 comes first. EnvironmentStepsChangeOnlyTheirInput says what a frame does
at any other time. -/

/-- R71, R134, R140: a whole PTT_DOWN frame, whatever its first 8 bytes, enters Transmit and ends the iteration. -/
def Obligations.PttDownFrameEntersTransmit : Prop :=
  ∀ (s : State) (pre : BitVec 64),
    s.mode = .receive → s.loopPhase = .iterStart ∨ s.loopPhase = .rxCmd → s.rxcState = .idle → s.hostIn = [] →
    CompletesWith (.framePttDown pre) s
      { kickedFirst s with
        rxcSel := 1, rxcCnt := 0, rxcState := .idle, loopPhase := .iterStart
        mode := .transmit, dbgInd := true, txEn := true, txLenA := 0, txLenB := 0, txFillA := true
        txPlayStart := s.now, txPlayEnd := s.now, dlmCnt := 0, guardValid := true, guardStart := s.now } []

/-- R69, R136, R140: a whole TUNE_TO frame forwards its four fields and leaves Receive with the drain next. -/
def Obligations.TuneToFrameForwardsItsFields : Prop :=
  ∀ (s : State) (pre : BitVec 64) (p : TuneParams),
    s.mode = .receive → s.loopPhase = .iterStart ∨ s.loopPhase = .rxCmd → s.rxcState = .idle → s.hostIn = [] →
    p.wellFormed = true →
    ∃ t, exec (.frameTuneTo pre p) s = .next t ∧
      unlogged t = unlogged
        { kickedFirst s with
          rxcSel := 3, rxcCnt := 0, rxcState := .idle, rxcT0 := s.now, loopPhase := .rxDrain
          rxcPbuf := t.rxcPbuf
          txEn := false, guardValid := false, guardStart := 0
          radio := s.radio ++ [.tune p.tx p.rx p.tone p.sq] } ∧
      (∀ j, slot t .rxcPbuf j = if j < 17 then p.bytes.getD j 0 else slot s .rxcPbuf j) ∧
      errorEvents t = errorEvents s

/-- R70, R138, R140: a whole FILTERS frame forwards flags and raw bytes and leaves the drain next. -/
def Obligations.FiltersFrameForwardsItsFlags : Prop :=
  ∀ (s : State) (pre : BitVec 64) (p : FilterParams),
    s.mode = .receive → s.loopPhase = .iterStart ∨ s.loopPhase = .rxCmd → s.rxcState = .idle → s.hostIn = [] →
    ∃ t, exec (.frameFilters pre p) s = .next t ∧
      unlogged t = unlogged
        { kickedFirst s with
          rxcSel := 4, rxcCnt := 0, rxcState := .idle, rxcT0 := s.now, loopPhase := .rxDrain
          rxcPbuf := t.rxcPbuf
          radio := s.radio ++
            [.filters (decide (p.emph = 0x31)) (decide (p.hpf = 0x31)) (decide (p.lpf = 0x31))
              [p.emph, p.hpf, p.lpf]] } ∧
      (∀ j, slot t .rxcPbuf j = if j < 3 then p.bytes.getD j 0 else slot s .rxcPbuf j) ∧
      errorEvents t = errorEvents s

/-- R75, R139: a whole frame with any other selector changes only the collector and the phase. -/
def Obligations.OtherFrameInReceiveIsIgnored : Prop :=
  ∀ (s : State) (pre : BitVec 64) (sel : Byte),
    s.mode = .receive → s.loopPhase = .iterStart ∨ s.loopPhase = .rxCmd → s.rxcState = .idle → s.hostIn = [] →
    sel ≠ 1 → sel ≠ 3 → sel ≠ 4 →
    CompletesWith (.frameIgnore pre sel) s
      { kickedFirst s with rxcSel := sel, rxcCnt := 0, rxcState := .idle, loopPhase := .rxDrain } []

/-- R72, R145: a whole PTT_UP frame in Transmit enters Receive, ingests nothing and ends the iteration. -/
def Obligations.PttUpFrameEntersReceive : Prop :=
  ∀ s : State, s.mode = .transmit → s.loopPhase = .iterStart ∨ s.loopPhase = .txBranch → s.dlmCnt = 0 →
    guardFires s = false → s.hostIn = [] → (∀ k, s.cfg.chunkMax = some k → 9 ≤ k) →
    CompletesWith .framePttUp s
      { kickedFirst s with
        mode := .receive, txEn := false, guardValid := false, guardStart := 0, loopPhase := .iterStart } []

/-- R76, R146, R147: a whole frame with any other selector in Transmit ingests its 8 delimiter bytes and excises the
selector. -/
def Obligations.OtherFrameInTransmitIngestsItsDelimiter : Prop :=
  ∀ (s : State) (sel : Byte), s.mode = .transmit → s.loopPhase = .iterStart ∨ s.loopPhase = .txBranch → s.dlmCnt = 0 →
    guardFires s = false → s.hostIn = [] → (∀ k, s.cfg.chunkMax = some k → 9 ≤ k) → sel ≠ 2 →
    fillingLen s ≤ s.cfg.cTx →
    ∃ t u, exec (.frameTxIgnore sel) s = .next t ∧
      exec (.txIngest [0xFF, 0x00, 0xFF, 0x00, 0xFF, 0x00, 0xFF, 0x00]) (kickedFirst s) = .next u ∧
      unlogged t = unlogged { u with loopPhase := .iterStart } ∧ errorEvents t = errorEvents u

/-! ### Mode control, guard, watchdog, loop (44_mode_control.md) -/

/-- R151: MODE.ENTER_TX writes its eleven registers and no other. -/
def Obligations.EnterTransmitWritesItsRegisters : Prop :=
  ∀ s : State,
    CompletesWith .modeEnterTx s
      { s with
        mode := .transmit, dbgInd := true, txEn := true, txLenA := 0, txLenB := 0, txFillA := true
        txPlayStart := s.now, txPlayEnd := s.now, dlmCnt := 0, guardValid := true, guardStart := s.now } []

/-- R153: MODE.ENTER_RX writes its four registers and no other; in Receive mode it changes no register. -/
def Obligations.EnterReceiveWritesItsRegisters : Prop :=
  ∀ s : State,
    CompletesWith .modeEnterRx s
      { s with mode := .receive, txEn := false, guardValid := false, guardStart := 0 } [] ∧
    (Inv s → s.mode = .receive → CompletesWith .modeEnterRx s s [])

/-- R155: GUARD.CHECK fires strictly after RUNAWAY_MAX_US, and then performs MODE.ENTER_RX; otherwise it changes nothing. -/
def Obligations.GuardFiresStrictlyAfterTheBound : Prop :=
  ∀ s : State,
    let e := (s.now - s.guardStart).toNat
    (s.guardValid = true ∧ s.cfg.runawayMaxUs < e →
      CompletesWith .guardCheck s
        { s with mode := .receive, txEn := false, guardValid := false, guardStart := 0 } [(.runaway, .count e)]) ∧
    (s.guardValid = false ∨ e ≤ s.cfg.runawayMaxUs → CompletesWith .guardCheck s s [])

/-- R158: WDT.KICK records NOW and emits it. -/
def Obligations.KickRecordsNow : Prop :=
  ∀ s : State, CompletesWith .wdtKick s { s with wdtLast := s.now, wdtKick := s.wdtKick ++ [s.now] } []

/-- R160, phase ITER_START: the kick comes first, then the phase by MODE and the FIFO. -/
def Obligations.IterationKicksThenBranches : Prop :=
  ∀ (s : State) (q : DrainDraw), s.loopPhase = .iterStart →
    CompletesWith (.loopIter q) s
      { s with
        wdtLast := s.now
        wdtKick := s.wdtKick ++ [s.now]
        loopPhase :=
          if s.mode = .transmit then .txBranch else if s.hostIn = [] then .rxDrain else .rxCmd } []

/-- R160, phases TX_BRANCH, RX_CMD and RX_DRAIN: the guard check and then the scan, the collector's step, the drain's step. -/
def Obligations.IterationRunsTheStepOfItsPhase : Prop :=
  ∀ (s : State) (q : DrainDraw),
    (s.loopPhase = .txBranch → guardFires s = true →
      CompletesWith (.loopIter q) s
        { s with mode := .receive, txEn := false, guardValid := false, guardStart := 0, loopPhase := .iterStart }
        [(.runaway, .count (s.now - s.guardStart).toNat)]) ∧
    (s.loopPhase = .txBranch → guardFires s = false → s.mode = .transmit → fillingLen s ≤ s.cfg.cTx →
      ∃ t u, exec (.loopIter q) s = .next t ∧ exec .txScan s = .next u ∧
        unlogged t = unlogged u ∧ errorEvents t = errorEvents u) ∧
    (s.loopPhase = .rxCmd → exec (.loopIter q) s = exec .rxCmd s) ∧
    (s.loopPhase = .rxDrain → exec (.loopIter q) s = exec (.rxDrain q) s)

/-- R156, R163: a Transmit iteration is two atomic steps long, and one that starts past the bound ends in Receive with TX_EN
deasserted, whatever the host sends. -/
def Obligations.TransmitIterationEndsInTwoSteps : Prop :=
  ∀ (s : State) (q : DrainDraw), Inv s → s.mode = .transmit → s.loopPhase = .iterStart →
    ∃ t, runInstrs [.loopIter q, .loopIter q] s = .next t ∧ t.loopPhase = .iterStart ∧
      (s.cfg.runawayMaxUs < (s.now - s.guardStart).toNat →
        t.mode = .receive ∧ t.txEn = false ∧ t.guardValid = false ∧
          errorEvents t = errorEvents s ++ [⟨s.now, .event .runaway, .count (s.now - s.guardStart).toNat⟩])

/-- R157: of the steps the agents, the timer and the environment take of their own, only a watchdog reset, the runaway guard
or a PTT_UP found by the scan leaves Transmit, and only selector 1 at the ninth header byte leaves Receive. -/
def Obligations.ModeChangesOnlyAsTheStateMachineSays : Prop :=
  ∀ (i : Instr) (s t : State), ownStep i = true → Inv s → PhaseFitsMode s → exec i s = .next t →
    (s.mode = .transmit → t.mode = .receive →
      (watchdogDue s = true ∧ ∃ d, i = .envWdtExpire d) ∨
      ((∃ q, i = .loopIter q) ∧ s.loopPhase = .txBranch ∧
        (guardFires s = true ∨ (scanBytes s.dlmCnt (s.hostIn.take (chunkLen s))).pttUp = true))) ∧
    (s.mode = .receive → t.mode = .transmit →
      (∃ q, i = .loopIter q) ∧ s.loopPhase = .rxCmd ∧ s.rxcState = .hdr ∧ s.rxcCnt = 8 ∧ s.hostIn.head? = some 1)

/-! ### Reset and environment (70_reset_and_hazards.md, 10_state.md section 3) -/

/-- R186: RESET gives every register its value, drawing SAMPLE_OUT and the FIFO's suffix (R191), and keeps NOW, the streams
and everything else; of the arrays, which hold any value then, it says nothing. -/
def Obligations.ResetWritesEveryRegister : Prop :=
  ∀ (s : State) (d : ResetDraw),
    ∃ t, exec (.reset d) s = .next t ∧ errorEvents t = errorEvents s ∧
      unlogged t = unlogged
        { s with
          mode := .receive, rxHead := 0, rxTail := 0, txFillA := true, txLenA := 0, txLenB := 0
          txPlayStart := 0, txPlayEnd := 0, dlmCnt := 0, guardValid := false, guardStart := 0
          txEn := false, dbgInd := false, sampleOut := d.sampleOut, tickPending := false
          tmrNext := s.now + BitVec.ofNat 64 s.cfg.tickPeriodUs
          rxcState := .idle, rxcCnt := 0, rxcSel := 0, rxcT0 := 0, loopPhase := .iterStart
          drSnap := 0, drN := 0, drI := 0, drActive := false
          rxBuf := t.rxBuf, txBufA := t.txBufA, txBufB := t.txBufB, scratch := t.scratch, rxcPbuf := t.rxcPbuf
          arrayEpoch := t.arrayEpoch
          wdtLast := s.now, hostIn := s.hostIn.drop d.drop }

/-- R186, R189 (derived: that an unwritten slot reads as a free value of the reset's number is the model's, log entry 5): after
RESET no slot of any array depends on what it held before. -/
def Obligations.ResetRedrawsEveryArraySlot : Prop :=
  ∀ (s : State) (d : ResetDraw),
    ∃ t, exec (.reset d) s = .next t ∧ ∀ a i, slot t a i = Config.freeArrayByte a (s.arrayEpoch + 1) i

/-- R175, R187: the expiry raises E_WDT_RESET with WDT_LAST and leaves the state RESET leaves. -/
def Obligations.WatchdogExpiryResets : Prop :=
  ∀ (s : State) (d : ResetDraw), s.cfg.wdtTimeoutUs ≤ (s.now - s.wdtLast).toNat →
    ∃ t u, exec (.envWdtExpire d) s = .next t ∧ exec (.reset d) s = .next u ∧ unlogged t = unlogged u ∧
      errorEvents t = errorEvents s ++ [⟨s.now, .event .wdtReset, .time s.wdtLast⟩]

/-- R40, R41: ENV.TIME advances NOW and nothing else by any amount of at least 1 (that stays within 64 bits: log entry 18),
and ENV.HOST_BYTE appends one byte to the FIFO and nothing else. A whole frame whose bytes are not the next that agent L takes
waits there too, behind the bytes that wait already: it is appended to the tail and nothing else happens (log entry 14). -/
def Obligations.EnvironmentStepsChangeOnlyTheirInput : Prop :=
  ∀ (s : State) (d : Time) (b : Byte),
    (1 ≤ d.toNat → s.now.toNat + d.toNat < 2 ^ 64 → CompletesWith (.envTime d) s { s with now := s.now + d } []) ∧
    (d = 0 ∨ 2 ^ 64 ≤ s.now.toNat + d.toNat → exec (.envTime d) s = .next s) ∧
    CompletesWith (.envHostByte b) s { s with hostIn := s.hostIn ++ [b] } [] ∧
    (s.mode = .transmit ∨ s.loopPhase = .txBranch ∨ s.loopPhase = .rxDrain ∨ s.rxcState ≠ .idle ∨ s.hostIn ≠ [] →
      ∀ (pre : BitVec 64) (p : TuneParams) (f : FilterParams) (sel : Byte) (i : Instr),
        i ∈ [.framePttDown pre, .frameTuneTo pre p, .frameFilters pre f, .frameIgnore pre sel] →
        CompletesWith i s { s with hostIn := s.hostIn ++ (encode i).bytes } []) ∧
    (s.mode = .receive ∨ s.loopPhase = .rxCmd ∨ s.loopPhase = .rxDrain ∨ s.dlmCnt ≠ 0 ∨ guardFires s = true ∨
        s.hostIn ≠ [] ∨ (∃ k, s.cfg.chunkMax = some k ∧ k < 9) →
      ∀ (sel : Byte) (i : Instr), i ∈ [.framePttUp, .frameTxIgnore sel] →
        CompletesWith i s { s with hostIn := s.hostIn ++ (encode i).bytes } [])

/-- R188: the control state after the power-on reset. -/
def Obligations.PowerOnControlState : Prop :=
  let s := State.reset
  s.mode = .receive ∧ s.tickPending = false ∧ s.tmrNext = s.now + BitVec.ofNat 64 s.cfg.tickPeriodUs ∧
  s.loopPhase = .iterStart ∧ s.rxcState = .idle ∧ s.dlmCnt = 0 ∧ unsentCount s = 0 ∧
  s.txLenA = 0 ∧ s.txLenB = 0 ∧ s.txFillA = true

/-! ### Encoding (30_encoding.md) -/

/-- R80, R81, R88: decoding the encoding of a well-formed instruction gives it back, whatever its operands (operand bytes are
the model's choice, log entry 9). -/
def Obligations.DecodeOfEncodeIsTheInstruction : Prop :=
  ∀ i : Instr, i.wellFormed = true → decode (encode i) = .ok i

/-- What the decoder reads is well formed, and its encoding is the request that was read. The operand bytes after an operation
id are the model's choice, log entry 9: R74 and R80 to R82 give none. -/
def Obligations.EncodeOfDecodeIsTheRequest : Prop :=
  ∀ (r : Request) (i : Instr), decode r = .ok i → i.wellFormed = true ∧ encode i = r

/-- R82: an id listed in neither R80 nor R81 is refused: the decoder names it, and the step that meets it refuses. -/
def Obligations.UnlistedIdsAreRefused : Prop :=
  ∀ (b : Byte) (bs : List Byte),
    b ∉ ([0x01, 0x10, 0x11, 0x12, 0x20, 0x30, 0x31, 0x32, 0x33, 0x34, 0x35, 0x40, 0x41, 0x42, 0x43, 0x44, 0x50, 0x51,
      0x52, 0x60, 0x61, 0x70, 0xE0, 0xE1, 0xE2] : List Byte) →
    decode ⟨.opid, b :: bs⟩ = .error (.unknownId b) ∧
    ∀ (s : State) (rest : List Request), watchdogDue s = false → strobeDue s = false →
      s.script = ⟨.opid, b :: bs⟩ :: rest → step s = .refused (.undecodable (.unknownId b))

/-- R68, R69, R70, R84 (S-1 of 95_test_vectors.md): the wire bytes of the four frames decode to their commands. -/
def Obligations.WireFramesDecodeToTheirCommands : Prop :=
  decode ⟨.rxFrame, [0xFF, 0x00, 0xFF, 0x00, 0xFF, 0x00, 0xFF, 0x00, 0x01]⟩ = .ok (.framePttDown 0xFF00FF00FF00FF00) ∧
  decode ⟨.txFrame, [0xFF, 0x00, 0xFF, 0x00, 0xFF, 0x00, 0xFF, 0x00, 0x02]⟩ = .ok .framePttUp ∧
  decode ⟨.rxFrame, [0xFF, 0x00, 0xFF, 0x00, 0xFF, 0x00, 0xFF, 0x00, 0x03, 0x31, 0x34, 0x36, 0x2E, 0x35, 0x32, 0x30,
      0x31, 0x34, 0x36, 0x2E, 0x35, 0x32, 0x31, 0x30, 0x37, 0x33]⟩ =
    .ok (.frameTuneTo 0xFF00FF00FF00FF00
      ⟨[0x31, 0x34, 0x36, 0x2E, 0x35, 0x32, 0x30], [0x31, 0x34, 0x36, 0x2E, 0x35, 0x32, 0x31], [0x30, 0x37], 0x33⟩) ∧
  decode ⟨.rxFrame, [0xFF, 0x00, 0xFF, 0x00, 0xFF, 0x00, 0xFF, 0x00, 0x04, 0x31, 0x30, 0x31]⟩ =
    .ok (.frameFilters 0xFF00FF00FF00FF00 ⟨0x31, 0x30, 0x31⟩)

/-! ### The step -/

/-- R182: the watchdog's step goes before any other; then the timer's; neither when neither is due. When the script's first
line then decodes to an instruction, the step is that instruction's `exec` on the state without the line. -/
def Obligations.StepRunsTheDecodedLine : Prop :=
  ∀ (s : State) (r : Request) (rest : List Request) (i : Instr),
    watchdogDue s = false → strobeDue s = false → s.script = r :: rest → decode r = .ok i →
    step s = exec i { s with script := rest }

/-- R62, R90, R182: whatever is scripted, a due watchdog expiry is the next step; with none due, a due strobe is; with neither,
and nothing scripted, it is a host byte, a time advance, a TICK if one is pending or agent L's step. That the strobe goes
before a host byte is R90 (log entry 17, DEDUCED). The draws of an expiry that no script asks for, and the free choice, are
taken at the draw counter (log entries 6 and 7); a script's line that asks for the very step that is due is used up (log
entry 8). -/
def Obligations.StepTakesTheHighestPriority : Prop :=
  ∀ s : State,
    (watchdogDue s = true →
      (∀ r rest d, s.script = r :: rest → decode r = .ok (.envWdtExpire d) →
        step s = exec (.envWdtExpire d) { s with script := rest }) ∧
      ((∀ r rest d, s.script = r :: rest → decode r ≠ .ok (.envWdtExpire d)) →
        ∃ d, step s = exec (.envWdtExpire d) { s with draws := s.draws + 1 })) ∧
    (watchdogDue s = false → strobeDue s = true →
      (∀ r rest, s.script = r :: rest → decode r = .ok .timerStrobe →
        step s = exec .timerStrobe { s with script := rest }) ∧
      ((∀ r rest, s.script = r :: rest → decode r ≠ .ok .timerStrobe) → step s = exec .timerStrobe s)) ∧
    (watchdogDue s = false → strobeDue s = false → s.script = [] →
      ∃ i, step s = exec i { s with draws := s.draws + 1 } ∧
        ((∃ b, i = .envHostByte b) ∨ (∃ d, i = .envTime d) ∨ (s.tickPending = true ∧ ∃ d, i = .tick d) ∨
          ∃ q, i = .loopIter q))

/-! ### Invariants -/

/-- R48: the invariant holds right after the power-on reset. -/
def Obligations.InvariantHoldsAtReset : Prop := Inv State.reset

/-- R48: every step keeps the register invariants and the canonical form of the arrays. -/
def Obligations.EveryStepKeepsTheInvariant : Prop :=
  ∀ s t : State, Inv s → step s = .next t → Inv t

/-- R55: from a state that meets the invariant no step indexes outside an array. -/
def Obligations.NoStepFaults : Prop :=
  ∀ s : State, Inv s → ∀ e, step s ≠ .fault e

/-- R205: the machine never halts. Every state that meets the invariant has a next state, unless the script's first line is one
that names no operation, which R82 refuses; and with nothing scripted nothing is scripted afterwards. -/
def Obligations.TheMachineNeverHalts : Prop :=
  ∀ s : State, Inv s → (∀ r rest, s.script = r :: rest → ∃ i, decode r = .ok i) →
    ∃ t, step s = .next t ∧ (s.script = [] → t.script = [])

/-- R40, R98: the four registers that record a past time, TX_PLAY_START, GUARD_START, RXC_T0 and WDT_LAST, never get ahead of NOW.
TMR_NEXT and TX_PLAY_END, which hold times to come, are not among them. -/
def Obligations.EveryStepKeepsTimesPast : Prop :=
  TimesPast State.reset ∧ ∀ s t : State, TimesPast s → step s = .next t → TimesPast t

/-- R49: no step ever makes readable a slot that nothing has written since the reset. Of RXC_PBUF it says nothing, because no
range of it stays readable from one step to the next (log entry 24). -/
def Obligations.EveryStepKeepsReadableSlotsWritten : Prop :=
  ReadableWritten State.reset ∧
    ∀ s t : State, Inv s → ReadableWritten s → step s = .next t → ReadableWritten t

/-- R160: every step that an agent, the timer or the environment takes of its own keeps agent L's phase in the part of the
iteration that its mode has. -/
def Obligations.PhaseFollowsMode : Prop :=
  PhaseFitsMode State.reset ∧
    ∀ (i : Instr) (s t : State), ownStep i = true → Inv s → PhaseFitsMode s → exec i s = .next t → PhaseFitsMode t

/-! ### Whole-machine rules -/

/-- R40, R44, R45, R167: no instruction changes a parameter or moves NOW back; the history only grows, and each output stream
grows by exactly what the new history entries say was handed to it (the form of those entries is log entry 12). -/
def Obligations.StreamsGrowAndParametersStay : Prop :=
  ∀ (i : Instr) (s t : State), exec i s = .next t →
    t.cfg = s.cfg ∧ s.now ≤ t.now ∧
    ∃ new, t.history = s.history ++ new ∧
      t.hostOut = s.hostOut ++ (emissions new).flatMap Emission.hostBytes ∧
      t.radio = s.radio ++ (emissions new).flatMap Emission.requests ∧
      t.sampleWr = s.sampleWr ++ (emissions new).flatMap Emission.samples ∧
      t.wdtKick = s.wdtKick ++ (emissions new).flatMap Emission.kicks

/-- R21, R183: agent S writes only its latch, its cursor, RXBUF and the sample output; agent L writes none of them, nor the
timer, nor NOW. -/
def Obligations.AgentsKeepTheAccessMatrix : Prop :=
  ∀ (s t : State),
    (∀ d, exec (.tick d) s = .next t →
      unlogged t = unlogged
        { s with
          tickPending := t.tickPending, rxTail := t.rxTail, rxBuf := t.rxBuf
          sampleOut := t.sampleOut, sampleWr := t.sampleWr }) ∧
    (∀ q, exec (.loopIter q) s = .next t →
      t.rxTail = s.rxTail ∧ t.rxBuf = s.rxBuf ∧ t.sampleOut = s.sampleOut ∧ t.sampleWr = s.sampleWr ∧
      t.tickPending = s.tickPending ∧ t.tmrNext = s.tmrNext ∧ t.now = s.now)

/-- R54, R115: agent L's step never writes a slot of the buffer that is playing when it starts. -/
def Obligations.AgentLNeverWritesThePlayingBuffer : Prop :=
  ∀ (q : DrainDraw) (s t : State), exec (.loopIter q) s = .next t →
    ∀ i, slot t (if s.txFillA then .txBufB else .txBufA) i = slot s (if s.txFillA then .txBufB else .txBufA) i

/-- R167: no part of the block reads the history: two states that differ only in it take the same step. -/
def Obligations.HistoryIsNeverRead : Prop :=
  ∀ (s : State) (h : List Entry), SameButHistory (step { s with history := h }) (step s)
end

