-- ==== Sys2Proof/Laws/Decode.lean ====
section
/-! SUPPORT. The pieces of decoding and encoding: ids, eight-byte fields, selectors. -/

namespace Sys2Proof

@[simp] theorem opOfId_id (op : OpName) : opOfId op.id = some op := by cases op <;> rfl

/-- No two operations share an id (tables of R80 and R81). -/
theorem OpName.id_injective {a b : OpName} (h : a.id = b.id) : a = b := by
  have := congrArg opOfId h
  simpa using this

theorem bytesOf64_length (v : BitVec 64) : (bytesOf64 v).length = 8 := rfl

/-- Eight bytes read back as the value they were made from. -/
theorem ofBytes64_extract (v : BitVec 64) :
    ofBytes64 (v.extractLsb' 56 8) (v.extractLsb' 48 8) (v.extractLsb' 40 8) (v.extractLsb' 32 8)
      (v.extractLsb' 24 8) (v.extractLsb' 16 8) (v.extractLsb' 8 8) (v.extractLsb' 0 8) = v := by
  unfold ofBytes64
  apply BitVec.eq_of_getLsbD_eq
  intro i hi
  simp only [BitVec.getLsbD_append, BitVec.getLsbD_extractLsb']
  repeat' split
  all_goals (rw [decide_eq_true (by omega), Bool.true_and]; congr 1; omega)

@[simp] theorem read64_bytesOf64 (v : BitVec 64) : read64 (bytesOf64 v) = some v := by
  simp [read64, bytesOf64, ofBytes64_extract]

@[simp] theorem decodeSample_encode (d : SampleRead) : decodeSample (encodeSample d) = some d := by
  cases d <;> simp [decodeSample, encodeSample]

@[simp] theorem decodeDrain_encode (q : DrainDraw) : decodeDrain (encodeDrain q) = some q := by
  obtain ⟨a, b⟩ := q
  cases a <;> cases b <;> rfl

/-- The four fields read back from the 17 bytes they make (R69). -/
theorem tuneParamsOf_bytes {p : TuneParams} (h : p.wellFormed = true) : tuneParamsOf p.bytes = p := by
  obtain ⟨tx, rx, tone, sq⟩ := p
  simp only [TuneParams.wellFormed, Bool.and_eq_true, beq_iff_eq] at h
  simp [tuneParamsOf, TuneParams.bytes, List.drop_append, List.take_append, h]

@[simp] theorem rxSelector_one : rxSelector 1 = .pttDown := rfl
@[simp] theorem rxSelector_three : rxSelector 3 = .tuneTo := rfl
@[simp] theorem rxSelector_four : rxSelector 4 = .filters := rfl

theorem rxSelector_ignored {sel : Byte} (h : ignoredInReceive sel = true) : rxSelector sel = .ignore := by
  simp only [ignoredInReceive, Bool.and_eq_true, bne_iff_ne] at h
  unfold rxSelector
  rw [if_neg h.1.1, if_neg h.1.2, if_neg h.2]

end Sys2Proof
end

