-- ==== Sys2Proof/Laws/State.lean ====
section
/-! SUPPORT. For each named update of the state, one lemma per field: what the update makes of it. All hold by unfolding the
update once, so that no later proof unfolds it. -/

namespace Sys2Proof.Machine

/-! ### appendEntry -/

@[simp] theorem appendEntry_cfg (k : EntryKind) (info : Info) (s : State) : (appendEntry k info s).cfg = s.cfg := rfl
@[simp] theorem appendEntry_mode (k : EntryKind) (info : Info) (s : State) : (appendEntry k info s).mode = s.mode := rfl
@[simp] theorem appendEntry_rxHead (k : EntryKind) (info : Info) (s : State) : (appendEntry k info s).rxHead = s.rxHead := rfl
@[simp] theorem appendEntry_rxTail (k : EntryKind) (info : Info) (s : State) : (appendEntry k info s).rxTail = s.rxTail := rfl
@[simp] theorem appendEntry_txFillA (k : EntryKind) (info : Info) (s : State) : (appendEntry k info s).txFillA = s.txFillA := rfl
@[simp] theorem appendEntry_txLenA (k : EntryKind) (info : Info) (s : State) : (appendEntry k info s).txLenA = s.txLenA := rfl
@[simp] theorem appendEntry_txLenB (k : EntryKind) (info : Info) (s : State) : (appendEntry k info s).txLenB = s.txLenB := rfl
@[simp] theorem appendEntry_txPlayStart (k : EntryKind) (info : Info) (s : State) : (appendEntry k info s).txPlayStart = s.txPlayStart := rfl
@[simp] theorem appendEntry_txPlayEnd (k : EntryKind) (info : Info) (s : State) : (appendEntry k info s).txPlayEnd = s.txPlayEnd := rfl
@[simp] theorem appendEntry_dlmCnt (k : EntryKind) (info : Info) (s : State) : (appendEntry k info s).dlmCnt = s.dlmCnt := rfl
@[simp] theorem appendEntry_guardValid (k : EntryKind) (info : Info) (s : State) : (appendEntry k info s).guardValid = s.guardValid := rfl
@[simp] theorem appendEntry_guardStart (k : EntryKind) (info : Info) (s : State) : (appendEntry k info s).guardStart = s.guardStart := rfl
@[simp] theorem appendEntry_txEn (k : EntryKind) (info : Info) (s : State) : (appendEntry k info s).txEn = s.txEn := rfl
@[simp] theorem appendEntry_dbgInd (k : EntryKind) (info : Info) (s : State) : (appendEntry k info s).dbgInd = s.dbgInd := rfl
@[simp] theorem appendEntry_sampleOut (k : EntryKind) (info : Info) (s : State) : (appendEntry k info s).sampleOut = s.sampleOut := rfl
@[simp] theorem appendEntry_tickPending (k : EntryKind) (info : Info) (s : State) : (appendEntry k info s).tickPending = s.tickPending := rfl
@[simp] theorem appendEntry_tmrNext (k : EntryKind) (info : Info) (s : State) : (appendEntry k info s).tmrNext = s.tmrNext := rfl
@[simp] theorem appendEntry_rxcState (k : EntryKind) (info : Info) (s : State) : (appendEntry k info s).rxcState = s.rxcState := rfl
@[simp] theorem appendEntry_rxcCnt (k : EntryKind) (info : Info) (s : State) : (appendEntry k info s).rxcCnt = s.rxcCnt := rfl
@[simp] theorem appendEntry_rxcSel (k : EntryKind) (info : Info) (s : State) : (appendEntry k info s).rxcSel = s.rxcSel := rfl
@[simp] theorem appendEntry_rxcT0 (k : EntryKind) (info : Info) (s : State) : (appendEntry k info s).rxcT0 = s.rxcT0 := rfl
@[simp] theorem appendEntry_loopPhase (k : EntryKind) (info : Info) (s : State) : (appendEntry k info s).loopPhase = s.loopPhase := rfl
@[simp] theorem appendEntry_drSnap (k : EntryKind) (info : Info) (s : State) : (appendEntry k info s).drSnap = s.drSnap := rfl
@[simp] theorem appendEntry_drN (k : EntryKind) (info : Info) (s : State) : (appendEntry k info s).drN = s.drN := rfl
@[simp] theorem appendEntry_drI (k : EntryKind) (info : Info) (s : State) : (appendEntry k info s).drI = s.drI := rfl
@[simp] theorem appendEntry_drActive (k : EntryKind) (info : Info) (s : State) : (appendEntry k info s).drActive = s.drActive := rfl
@[simp] theorem appendEntry_rxBuf (k : EntryKind) (info : Info) (s : State) : (appendEntry k info s).rxBuf = s.rxBuf := rfl
@[simp] theorem appendEntry_txBufA (k : EntryKind) (info : Info) (s : State) : (appendEntry k info s).txBufA = s.txBufA := rfl
@[simp] theorem appendEntry_txBufB (k : EntryKind) (info : Info) (s : State) : (appendEntry k info s).txBufB = s.txBufB := rfl
@[simp] theorem appendEntry_scratch (k : EntryKind) (info : Info) (s : State) : (appendEntry k info s).scratch = s.scratch := rfl
@[simp] theorem appendEntry_rxcPbuf (k : EntryKind) (info : Info) (s : State) : (appendEntry k info s).rxcPbuf = s.rxcPbuf := rfl
@[simp] theorem appendEntry_now (k : EntryKind) (info : Info) (s : State) : (appendEntry k info s).now = s.now := rfl
@[simp] theorem appendEntry_wdtLast (k : EntryKind) (info : Info) (s : State) : (appendEntry k info s).wdtLast = s.wdtLast := rfl
@[simp] theorem appendEntry_hostIn (k : EntryKind) (info : Info) (s : State) : (appendEntry k info s).hostIn = s.hostIn := rfl
@[simp] theorem appendEntry_hostOut (k : EntryKind) (info : Info) (s : State) : (appendEntry k info s).hostOut = s.hostOut := rfl
@[simp] theorem appendEntry_radio (k : EntryKind) (info : Info) (s : State) : (appendEntry k info s).radio = s.radio := rfl
@[simp] theorem appendEntry_sampleWr (k : EntryKind) (info : Info) (s : State) : (appendEntry k info s).sampleWr = s.sampleWr := rfl
@[simp] theorem appendEntry_wdtKick (k : EntryKind) (info : Info) (s : State) : (appendEntry k info s).wdtKick = s.wdtKick := rfl
@[simp] theorem appendEntry_history (k : EntryKind) (info : Info) (s : State) : (appendEntry k info s).history = s.history ++ [⟨s.now, k, info⟩] := rfl
@[simp] theorem appendEntry_arrayEpoch (k : EntryKind) (info : Info) (s : State) : (appendEntry k info s).arrayEpoch = s.arrayEpoch := rfl
@[simp] theorem appendEntry_draws (k : EntryKind) (info : Info) (s : State) : (appendEntry k info s).draws = s.draws := rfl
@[simp] theorem appendEntry_script (k : EntryKind) (info : Info) (s : State) : (appendEntry k info s).script = s.script := rfl

/-! ### recordOp -/

@[simp] theorem recordOp_cfg (o : OpName) (info : Info) (s : State) : (recordOp o info s).cfg = s.cfg := rfl
@[simp] theorem recordOp_mode (o : OpName) (info : Info) (s : State) : (recordOp o info s).mode = s.mode := rfl
@[simp] theorem recordOp_rxHead (o : OpName) (info : Info) (s : State) : (recordOp o info s).rxHead = s.rxHead := rfl
@[simp] theorem recordOp_rxTail (o : OpName) (info : Info) (s : State) : (recordOp o info s).rxTail = s.rxTail := rfl
@[simp] theorem recordOp_txFillA (o : OpName) (info : Info) (s : State) : (recordOp o info s).txFillA = s.txFillA := rfl
@[simp] theorem recordOp_txLenA (o : OpName) (info : Info) (s : State) : (recordOp o info s).txLenA = s.txLenA := rfl
@[simp] theorem recordOp_txLenB (o : OpName) (info : Info) (s : State) : (recordOp o info s).txLenB = s.txLenB := rfl
@[simp] theorem recordOp_txPlayStart (o : OpName) (info : Info) (s : State) : (recordOp o info s).txPlayStart = s.txPlayStart := rfl
@[simp] theorem recordOp_txPlayEnd (o : OpName) (info : Info) (s : State) : (recordOp o info s).txPlayEnd = s.txPlayEnd := rfl
@[simp] theorem recordOp_dlmCnt (o : OpName) (info : Info) (s : State) : (recordOp o info s).dlmCnt = s.dlmCnt := rfl
@[simp] theorem recordOp_guardValid (o : OpName) (info : Info) (s : State) : (recordOp o info s).guardValid = s.guardValid := rfl
@[simp] theorem recordOp_guardStart (o : OpName) (info : Info) (s : State) : (recordOp o info s).guardStart = s.guardStart := rfl
@[simp] theorem recordOp_txEn (o : OpName) (info : Info) (s : State) : (recordOp o info s).txEn = s.txEn := rfl
@[simp] theorem recordOp_dbgInd (o : OpName) (info : Info) (s : State) : (recordOp o info s).dbgInd = s.dbgInd := rfl
@[simp] theorem recordOp_sampleOut (o : OpName) (info : Info) (s : State) : (recordOp o info s).sampleOut = s.sampleOut := rfl
@[simp] theorem recordOp_tickPending (o : OpName) (info : Info) (s : State) : (recordOp o info s).tickPending = s.tickPending := rfl
@[simp] theorem recordOp_tmrNext (o : OpName) (info : Info) (s : State) : (recordOp o info s).tmrNext = s.tmrNext := rfl
@[simp] theorem recordOp_rxcState (o : OpName) (info : Info) (s : State) : (recordOp o info s).rxcState = s.rxcState := rfl
@[simp] theorem recordOp_rxcCnt (o : OpName) (info : Info) (s : State) : (recordOp o info s).rxcCnt = s.rxcCnt := rfl
@[simp] theorem recordOp_rxcSel (o : OpName) (info : Info) (s : State) : (recordOp o info s).rxcSel = s.rxcSel := rfl
@[simp] theorem recordOp_rxcT0 (o : OpName) (info : Info) (s : State) : (recordOp o info s).rxcT0 = s.rxcT0 := rfl
@[simp] theorem recordOp_loopPhase (o : OpName) (info : Info) (s : State) : (recordOp o info s).loopPhase = s.loopPhase := rfl
@[simp] theorem recordOp_drSnap (o : OpName) (info : Info) (s : State) : (recordOp o info s).drSnap = s.drSnap := rfl
@[simp] theorem recordOp_drN (o : OpName) (info : Info) (s : State) : (recordOp o info s).drN = s.drN := rfl
@[simp] theorem recordOp_drI (o : OpName) (info : Info) (s : State) : (recordOp o info s).drI = s.drI := rfl
@[simp] theorem recordOp_drActive (o : OpName) (info : Info) (s : State) : (recordOp o info s).drActive = s.drActive := rfl
@[simp] theorem recordOp_rxBuf (o : OpName) (info : Info) (s : State) : (recordOp o info s).rxBuf = s.rxBuf := rfl
@[simp] theorem recordOp_txBufA (o : OpName) (info : Info) (s : State) : (recordOp o info s).txBufA = s.txBufA := rfl
@[simp] theorem recordOp_txBufB (o : OpName) (info : Info) (s : State) : (recordOp o info s).txBufB = s.txBufB := rfl
@[simp] theorem recordOp_scratch (o : OpName) (info : Info) (s : State) : (recordOp o info s).scratch = s.scratch := rfl
@[simp] theorem recordOp_rxcPbuf (o : OpName) (info : Info) (s : State) : (recordOp o info s).rxcPbuf = s.rxcPbuf := rfl
@[simp] theorem recordOp_now (o : OpName) (info : Info) (s : State) : (recordOp o info s).now = s.now := rfl
@[simp] theorem recordOp_wdtLast (o : OpName) (info : Info) (s : State) : (recordOp o info s).wdtLast = s.wdtLast := rfl
@[simp] theorem recordOp_hostIn (o : OpName) (info : Info) (s : State) : (recordOp o info s).hostIn = s.hostIn := rfl
@[simp] theorem recordOp_hostOut (o : OpName) (info : Info) (s : State) : (recordOp o info s).hostOut = s.hostOut := rfl
@[simp] theorem recordOp_radio (o : OpName) (info : Info) (s : State) : (recordOp o info s).radio = s.radio := rfl
@[simp] theorem recordOp_sampleWr (o : OpName) (info : Info) (s : State) : (recordOp o info s).sampleWr = s.sampleWr := rfl
@[simp] theorem recordOp_wdtKick (o : OpName) (info : Info) (s : State) : (recordOp o info s).wdtKick = s.wdtKick := rfl
@[simp] theorem recordOp_history (o : OpName) (info : Info) (s : State) : (recordOp o info s).history = s.history ++ [⟨s.now, .op o, info⟩] := rfl
@[simp] theorem recordOp_arrayEpoch (o : OpName) (info : Info) (s : State) : (recordOp o info s).arrayEpoch = s.arrayEpoch := rfl
@[simp] theorem recordOp_draws (o : OpName) (info : Info) (s : State) : (recordOp o info s).draws = s.draws := rfl
@[simp] theorem recordOp_script (o : OpName) (info : Info) (s : State) : (recordOp o info s).script = s.script := rfl

/-! ### raiseEvent -/

@[simp] theorem raiseEvent_cfg (e : EventCode) (info : Info) (s : State) : (raiseEvent e info s).cfg = s.cfg := rfl
@[simp] theorem raiseEvent_mode (e : EventCode) (info : Info) (s : State) : (raiseEvent e info s).mode = s.mode := rfl
@[simp] theorem raiseEvent_rxHead (e : EventCode) (info : Info) (s : State) : (raiseEvent e info s).rxHead = s.rxHead := rfl
@[simp] theorem raiseEvent_rxTail (e : EventCode) (info : Info) (s : State) : (raiseEvent e info s).rxTail = s.rxTail := rfl
@[simp] theorem raiseEvent_txFillA (e : EventCode) (info : Info) (s : State) : (raiseEvent e info s).txFillA = s.txFillA := rfl
@[simp] theorem raiseEvent_txLenA (e : EventCode) (info : Info) (s : State) : (raiseEvent e info s).txLenA = s.txLenA := rfl
@[simp] theorem raiseEvent_txLenB (e : EventCode) (info : Info) (s : State) : (raiseEvent e info s).txLenB = s.txLenB := rfl
@[simp] theorem raiseEvent_txPlayStart (e : EventCode) (info : Info) (s : State) : (raiseEvent e info s).txPlayStart = s.txPlayStart := rfl
@[simp] theorem raiseEvent_txPlayEnd (e : EventCode) (info : Info) (s : State) : (raiseEvent e info s).txPlayEnd = s.txPlayEnd := rfl
@[simp] theorem raiseEvent_dlmCnt (e : EventCode) (info : Info) (s : State) : (raiseEvent e info s).dlmCnt = s.dlmCnt := rfl
@[simp] theorem raiseEvent_guardValid (e : EventCode) (info : Info) (s : State) : (raiseEvent e info s).guardValid = s.guardValid := rfl
@[simp] theorem raiseEvent_guardStart (e : EventCode) (info : Info) (s : State) : (raiseEvent e info s).guardStart = s.guardStart := rfl
@[simp] theorem raiseEvent_txEn (e : EventCode) (info : Info) (s : State) : (raiseEvent e info s).txEn = s.txEn := rfl
@[simp] theorem raiseEvent_dbgInd (e : EventCode) (info : Info) (s : State) : (raiseEvent e info s).dbgInd = s.dbgInd := rfl
@[simp] theorem raiseEvent_sampleOut (e : EventCode) (info : Info) (s : State) : (raiseEvent e info s).sampleOut = s.sampleOut := rfl
@[simp] theorem raiseEvent_tickPending (e : EventCode) (info : Info) (s : State) : (raiseEvent e info s).tickPending = s.tickPending := rfl
@[simp] theorem raiseEvent_tmrNext (e : EventCode) (info : Info) (s : State) : (raiseEvent e info s).tmrNext = s.tmrNext := rfl
@[simp] theorem raiseEvent_rxcState (e : EventCode) (info : Info) (s : State) : (raiseEvent e info s).rxcState = s.rxcState := rfl
@[simp] theorem raiseEvent_rxcCnt (e : EventCode) (info : Info) (s : State) : (raiseEvent e info s).rxcCnt = s.rxcCnt := rfl
@[simp] theorem raiseEvent_rxcSel (e : EventCode) (info : Info) (s : State) : (raiseEvent e info s).rxcSel = s.rxcSel := rfl
@[simp] theorem raiseEvent_rxcT0 (e : EventCode) (info : Info) (s : State) : (raiseEvent e info s).rxcT0 = s.rxcT0 := rfl
@[simp] theorem raiseEvent_loopPhase (e : EventCode) (info : Info) (s : State) : (raiseEvent e info s).loopPhase = s.loopPhase := rfl
@[simp] theorem raiseEvent_drSnap (e : EventCode) (info : Info) (s : State) : (raiseEvent e info s).drSnap = s.drSnap := rfl
@[simp] theorem raiseEvent_drN (e : EventCode) (info : Info) (s : State) : (raiseEvent e info s).drN = s.drN := rfl
@[simp] theorem raiseEvent_drI (e : EventCode) (info : Info) (s : State) : (raiseEvent e info s).drI = s.drI := rfl
@[simp] theorem raiseEvent_drActive (e : EventCode) (info : Info) (s : State) : (raiseEvent e info s).drActive = s.drActive := rfl
@[simp] theorem raiseEvent_rxBuf (e : EventCode) (info : Info) (s : State) : (raiseEvent e info s).rxBuf = s.rxBuf := rfl
@[simp] theorem raiseEvent_txBufA (e : EventCode) (info : Info) (s : State) : (raiseEvent e info s).txBufA = s.txBufA := rfl
@[simp] theorem raiseEvent_txBufB (e : EventCode) (info : Info) (s : State) : (raiseEvent e info s).txBufB = s.txBufB := rfl
@[simp] theorem raiseEvent_scratch (e : EventCode) (info : Info) (s : State) : (raiseEvent e info s).scratch = s.scratch := rfl
@[simp] theorem raiseEvent_rxcPbuf (e : EventCode) (info : Info) (s : State) : (raiseEvent e info s).rxcPbuf = s.rxcPbuf := rfl
@[simp] theorem raiseEvent_now (e : EventCode) (info : Info) (s : State) : (raiseEvent e info s).now = s.now := rfl
@[simp] theorem raiseEvent_wdtLast (e : EventCode) (info : Info) (s : State) : (raiseEvent e info s).wdtLast = s.wdtLast := rfl
@[simp] theorem raiseEvent_hostIn (e : EventCode) (info : Info) (s : State) : (raiseEvent e info s).hostIn = s.hostIn := rfl
@[simp] theorem raiseEvent_hostOut (e : EventCode) (info : Info) (s : State) : (raiseEvent e info s).hostOut = s.hostOut := rfl
@[simp] theorem raiseEvent_radio (e : EventCode) (info : Info) (s : State) : (raiseEvent e info s).radio = s.radio := rfl
@[simp] theorem raiseEvent_sampleWr (e : EventCode) (info : Info) (s : State) : (raiseEvent e info s).sampleWr = s.sampleWr := rfl
@[simp] theorem raiseEvent_wdtKick (e : EventCode) (info : Info) (s : State) : (raiseEvent e info s).wdtKick = s.wdtKick := rfl
@[simp] theorem raiseEvent_history (e : EventCode) (info : Info) (s : State) : (raiseEvent e info s).history = s.history ++ [⟨s.now, .event e, info⟩] := rfl
@[simp] theorem raiseEvent_arrayEpoch (e : EventCode) (info : Info) (s : State) : (raiseEvent e info s).arrayEpoch = s.arrayEpoch := rfl
@[simp] theorem raiseEvent_draws (e : EventCode) (info : Info) (s : State) : (raiseEvent e info s).draws = s.draws := rfl
@[simp] theorem raiseEvent_script (e : EventCode) (info : Info) (s : State) : (raiseEvent e info s).script = s.script := rfl

/-! ### hostDrop -/

@[simp] theorem hostDrop_cfg (n : Nat) (s : State) : (hostDrop n s).cfg = s.cfg := rfl
@[simp] theorem hostDrop_mode (n : Nat) (s : State) : (hostDrop n s).mode = s.mode := rfl
@[simp] theorem hostDrop_rxHead (n : Nat) (s : State) : (hostDrop n s).rxHead = s.rxHead := rfl
@[simp] theorem hostDrop_rxTail (n : Nat) (s : State) : (hostDrop n s).rxTail = s.rxTail := rfl
@[simp] theorem hostDrop_txFillA (n : Nat) (s : State) : (hostDrop n s).txFillA = s.txFillA := rfl
@[simp] theorem hostDrop_txLenA (n : Nat) (s : State) : (hostDrop n s).txLenA = s.txLenA := rfl
@[simp] theorem hostDrop_txLenB (n : Nat) (s : State) : (hostDrop n s).txLenB = s.txLenB := rfl
@[simp] theorem hostDrop_txPlayStart (n : Nat) (s : State) : (hostDrop n s).txPlayStart = s.txPlayStart := rfl
@[simp] theorem hostDrop_txPlayEnd (n : Nat) (s : State) : (hostDrop n s).txPlayEnd = s.txPlayEnd := rfl
@[simp] theorem hostDrop_dlmCnt (n : Nat) (s : State) : (hostDrop n s).dlmCnt = s.dlmCnt := rfl
@[simp] theorem hostDrop_guardValid (n : Nat) (s : State) : (hostDrop n s).guardValid = s.guardValid := rfl
@[simp] theorem hostDrop_guardStart (n : Nat) (s : State) : (hostDrop n s).guardStart = s.guardStart := rfl
@[simp] theorem hostDrop_txEn (n : Nat) (s : State) : (hostDrop n s).txEn = s.txEn := rfl
@[simp] theorem hostDrop_dbgInd (n : Nat) (s : State) : (hostDrop n s).dbgInd = s.dbgInd := rfl
@[simp] theorem hostDrop_sampleOut (n : Nat) (s : State) : (hostDrop n s).sampleOut = s.sampleOut := rfl
@[simp] theorem hostDrop_tickPending (n : Nat) (s : State) : (hostDrop n s).tickPending = s.tickPending := rfl
@[simp] theorem hostDrop_tmrNext (n : Nat) (s : State) : (hostDrop n s).tmrNext = s.tmrNext := rfl
@[simp] theorem hostDrop_rxcState (n : Nat) (s : State) : (hostDrop n s).rxcState = s.rxcState := rfl
@[simp] theorem hostDrop_rxcCnt (n : Nat) (s : State) : (hostDrop n s).rxcCnt = s.rxcCnt := rfl
@[simp] theorem hostDrop_rxcSel (n : Nat) (s : State) : (hostDrop n s).rxcSel = s.rxcSel := rfl
@[simp] theorem hostDrop_rxcT0 (n : Nat) (s : State) : (hostDrop n s).rxcT0 = s.rxcT0 := rfl
@[simp] theorem hostDrop_loopPhase (n : Nat) (s : State) : (hostDrop n s).loopPhase = s.loopPhase := rfl
@[simp] theorem hostDrop_drSnap (n : Nat) (s : State) : (hostDrop n s).drSnap = s.drSnap := rfl
@[simp] theorem hostDrop_drN (n : Nat) (s : State) : (hostDrop n s).drN = s.drN := rfl
@[simp] theorem hostDrop_drI (n : Nat) (s : State) : (hostDrop n s).drI = s.drI := rfl
@[simp] theorem hostDrop_drActive (n : Nat) (s : State) : (hostDrop n s).drActive = s.drActive := rfl
@[simp] theorem hostDrop_rxBuf (n : Nat) (s : State) : (hostDrop n s).rxBuf = s.rxBuf := rfl
@[simp] theorem hostDrop_txBufA (n : Nat) (s : State) : (hostDrop n s).txBufA = s.txBufA := rfl
@[simp] theorem hostDrop_txBufB (n : Nat) (s : State) : (hostDrop n s).txBufB = s.txBufB := rfl
@[simp] theorem hostDrop_scratch (n : Nat) (s : State) : (hostDrop n s).scratch = s.scratch := rfl
@[simp] theorem hostDrop_rxcPbuf (n : Nat) (s : State) : (hostDrop n s).rxcPbuf = s.rxcPbuf := rfl
@[simp] theorem hostDrop_now (n : Nat) (s : State) : (hostDrop n s).now = s.now := rfl
@[simp] theorem hostDrop_wdtLast (n : Nat) (s : State) : (hostDrop n s).wdtLast = s.wdtLast := rfl
@[simp] theorem hostDrop_hostIn (n : Nat) (s : State) : (hostDrop n s).hostIn = s.hostIn.drop n := rfl
@[simp] theorem hostDrop_hostOut (n : Nat) (s : State) : (hostDrop n s).hostOut = s.hostOut := rfl
@[simp] theorem hostDrop_radio (n : Nat) (s : State) : (hostDrop n s).radio = s.radio := rfl
@[simp] theorem hostDrop_sampleWr (n : Nat) (s : State) : (hostDrop n s).sampleWr = s.sampleWr := rfl
@[simp] theorem hostDrop_wdtKick (n : Nat) (s : State) : (hostDrop n s).wdtKick = s.wdtKick := rfl
@[simp] theorem hostDrop_history (n : Nat) (s : State) : (hostDrop n s).history = s.history := rfl
@[simp] theorem hostDrop_arrayEpoch (n : Nat) (s : State) : (hostDrop n s).arrayEpoch = s.arrayEpoch := rfl
@[simp] theorem hostDrop_draws (n : Nat) (s : State) : (hostDrop n s).draws = s.draws := rfl
@[simp] theorem hostDrop_script (n : Nat) (s : State) : (hostDrop n s).script = s.script := rfl

/-! ### enterTx -/

@[simp] theorem enterTx_cfg (s : State) : (enterTx s).cfg = s.cfg := rfl
@[simp] theorem enterTx_mode (s : State) : (enterTx s).mode = .transmit := rfl
@[simp] theorem enterTx_rxHead (s : State) : (enterTx s).rxHead = s.rxHead := rfl
@[simp] theorem enterTx_rxTail (s : State) : (enterTx s).rxTail = s.rxTail := rfl
@[simp] theorem enterTx_txFillA (s : State) : (enterTx s).txFillA = true := rfl
@[simp] theorem enterTx_txLenA (s : State) : (enterTx s).txLenA = 0 := rfl
@[simp] theorem enterTx_txLenB (s : State) : (enterTx s).txLenB = 0 := rfl
@[simp] theorem enterTx_txPlayStart (s : State) : (enterTx s).txPlayStart = s.now := rfl
@[simp] theorem enterTx_txPlayEnd (s : State) : (enterTx s).txPlayEnd = s.now := rfl
@[simp] theorem enterTx_dlmCnt (s : State) : (enterTx s).dlmCnt = 0 := rfl
@[simp] theorem enterTx_guardValid (s : State) : (enterTx s).guardValid = true := rfl
@[simp] theorem enterTx_guardStart (s : State) : (enterTx s).guardStart = s.now := rfl
@[simp] theorem enterTx_txEn (s : State) : (enterTx s).txEn = true := rfl
@[simp] theorem enterTx_dbgInd (s : State) : (enterTx s).dbgInd = true := rfl
@[simp] theorem enterTx_sampleOut (s : State) : (enterTx s).sampleOut = s.sampleOut := rfl
@[simp] theorem enterTx_tickPending (s : State) : (enterTx s).tickPending = s.tickPending := rfl
@[simp] theorem enterTx_tmrNext (s : State) : (enterTx s).tmrNext = s.tmrNext := rfl
@[simp] theorem enterTx_rxcState (s : State) : (enterTx s).rxcState = s.rxcState := rfl
@[simp] theorem enterTx_rxcCnt (s : State) : (enterTx s).rxcCnt = s.rxcCnt := rfl
@[simp] theorem enterTx_rxcSel (s : State) : (enterTx s).rxcSel = s.rxcSel := rfl
@[simp] theorem enterTx_rxcT0 (s : State) : (enterTx s).rxcT0 = s.rxcT0 := rfl
@[simp] theorem enterTx_loopPhase (s : State) : (enterTx s).loopPhase = s.loopPhase := rfl
@[simp] theorem enterTx_drSnap (s : State) : (enterTx s).drSnap = s.drSnap := rfl
@[simp] theorem enterTx_drN (s : State) : (enterTx s).drN = s.drN := rfl
@[simp] theorem enterTx_drI (s : State) : (enterTx s).drI = s.drI := rfl
@[simp] theorem enterTx_drActive (s : State) : (enterTx s).drActive = s.drActive := rfl
@[simp] theorem enterTx_rxBuf (s : State) : (enterTx s).rxBuf = s.rxBuf := rfl
@[simp] theorem enterTx_txBufA (s : State) : (enterTx s).txBufA = s.txBufA := rfl
@[simp] theorem enterTx_txBufB (s : State) : (enterTx s).txBufB = s.txBufB := rfl
@[simp] theorem enterTx_scratch (s : State) : (enterTx s).scratch = s.scratch := rfl
@[simp] theorem enterTx_rxcPbuf (s : State) : (enterTx s).rxcPbuf = s.rxcPbuf := rfl
@[simp] theorem enterTx_now (s : State) : (enterTx s).now = s.now := rfl
@[simp] theorem enterTx_wdtLast (s : State) : (enterTx s).wdtLast = s.wdtLast := rfl
@[simp] theorem enterTx_hostIn (s : State) : (enterTx s).hostIn = s.hostIn := rfl
@[simp] theorem enterTx_hostOut (s : State) : (enterTx s).hostOut = s.hostOut := rfl
@[simp] theorem enterTx_radio (s : State) : (enterTx s).radio = s.radio := rfl
@[simp] theorem enterTx_sampleWr (s : State) : (enterTx s).sampleWr = s.sampleWr := rfl
@[simp] theorem enterTx_wdtKick (s : State) : (enterTx s).wdtKick = s.wdtKick := rfl
@[simp] theorem enterTx_history (s : State) : (enterTx s).history = s.history ++ [⟨s.now, .op .modeEnterTx, .none⟩] := rfl
@[simp] theorem enterTx_arrayEpoch (s : State) : (enterTx s).arrayEpoch = s.arrayEpoch := rfl
@[simp] theorem enterTx_draws (s : State) : (enterTx s).draws = s.draws := rfl
@[simp] theorem enterTx_script (s : State) : (enterTx s).script = s.script := rfl

/-! ### enterRx -/

@[simp] theorem enterRx_cfg (s : State) : (enterRx s).cfg = s.cfg := rfl
@[simp] theorem enterRx_mode (s : State) : (enterRx s).mode = .receive := rfl
@[simp] theorem enterRx_rxHead (s : State) : (enterRx s).rxHead = s.rxHead := rfl
@[simp] theorem enterRx_rxTail (s : State) : (enterRx s).rxTail = s.rxTail := rfl
@[simp] theorem enterRx_txFillA (s : State) : (enterRx s).txFillA = s.txFillA := rfl
@[simp] theorem enterRx_txLenA (s : State) : (enterRx s).txLenA = s.txLenA := rfl
@[simp] theorem enterRx_txLenB (s : State) : (enterRx s).txLenB = s.txLenB := rfl
@[simp] theorem enterRx_txPlayStart (s : State) : (enterRx s).txPlayStart = s.txPlayStart := rfl
@[simp] theorem enterRx_txPlayEnd (s : State) : (enterRx s).txPlayEnd = s.txPlayEnd := rfl
@[simp] theorem enterRx_dlmCnt (s : State) : (enterRx s).dlmCnt = s.dlmCnt := rfl
@[simp] theorem enterRx_guardValid (s : State) : (enterRx s).guardValid = false := rfl
@[simp] theorem enterRx_guardStart (s : State) : (enterRx s).guardStart = 0 := rfl
@[simp] theorem enterRx_txEn (s : State) : (enterRx s).txEn = false := rfl
@[simp] theorem enterRx_dbgInd (s : State) : (enterRx s).dbgInd = s.dbgInd := rfl
@[simp] theorem enterRx_sampleOut (s : State) : (enterRx s).sampleOut = s.sampleOut := rfl
@[simp] theorem enterRx_tickPending (s : State) : (enterRx s).tickPending = s.tickPending := rfl
@[simp] theorem enterRx_tmrNext (s : State) : (enterRx s).tmrNext = s.tmrNext := rfl
@[simp] theorem enterRx_rxcState (s : State) : (enterRx s).rxcState = s.rxcState := rfl
@[simp] theorem enterRx_rxcCnt (s : State) : (enterRx s).rxcCnt = s.rxcCnt := rfl
@[simp] theorem enterRx_rxcSel (s : State) : (enterRx s).rxcSel = s.rxcSel := rfl
@[simp] theorem enterRx_rxcT0 (s : State) : (enterRx s).rxcT0 = s.rxcT0 := rfl
@[simp] theorem enterRx_loopPhase (s : State) : (enterRx s).loopPhase = s.loopPhase := rfl
@[simp] theorem enterRx_drSnap (s : State) : (enterRx s).drSnap = s.drSnap := rfl
@[simp] theorem enterRx_drN (s : State) : (enterRx s).drN = s.drN := rfl
@[simp] theorem enterRx_drI (s : State) : (enterRx s).drI = s.drI := rfl
@[simp] theorem enterRx_drActive (s : State) : (enterRx s).drActive = s.drActive := rfl
@[simp] theorem enterRx_rxBuf (s : State) : (enterRx s).rxBuf = s.rxBuf := rfl
@[simp] theorem enterRx_txBufA (s : State) : (enterRx s).txBufA = s.txBufA := rfl
@[simp] theorem enterRx_txBufB (s : State) : (enterRx s).txBufB = s.txBufB := rfl
@[simp] theorem enterRx_scratch (s : State) : (enterRx s).scratch = s.scratch := rfl
@[simp] theorem enterRx_rxcPbuf (s : State) : (enterRx s).rxcPbuf = s.rxcPbuf := rfl
@[simp] theorem enterRx_now (s : State) : (enterRx s).now = s.now := rfl
@[simp] theorem enterRx_wdtLast (s : State) : (enterRx s).wdtLast = s.wdtLast := rfl
@[simp] theorem enterRx_hostIn (s : State) : (enterRx s).hostIn = s.hostIn := rfl
@[simp] theorem enterRx_hostOut (s : State) : (enterRx s).hostOut = s.hostOut := rfl
@[simp] theorem enterRx_radio (s : State) : (enterRx s).radio = s.radio := rfl
@[simp] theorem enterRx_sampleWr (s : State) : (enterRx s).sampleWr = s.sampleWr := rfl
@[simp] theorem enterRx_wdtKick (s : State) : (enterRx s).wdtKick = s.wdtKick := rfl
@[simp] theorem enterRx_history (s : State) : (enterRx s).history = s.history ++ [⟨s.now, .op .modeEnterRx, .none⟩] := rfl
@[simp] theorem enterRx_arrayEpoch (s : State) : (enterRx s).arrayEpoch = s.arrayEpoch := rfl
@[simp] theorem enterRx_draws (s : State) : (enterRx s).draws = s.draws := rfl
@[simp] theorem enterRx_script (s : State) : (enterRx s).script = s.script := rfl

/-! ### applyReset -/

@[simp] theorem applyReset_cfg (d : ResetDraw) (s : State) : (applyReset d s).cfg = s.cfg := rfl
@[simp] theorem applyReset_mode (d : ResetDraw) (s : State) : (applyReset d s).mode = .receive := rfl
@[simp] theorem applyReset_rxHead (d : ResetDraw) (s : State) : (applyReset d s).rxHead = 0 := rfl
@[simp] theorem applyReset_rxTail (d : ResetDraw) (s : State) : (applyReset d s).rxTail = 0 := rfl
@[simp] theorem applyReset_txFillA (d : ResetDraw) (s : State) : (applyReset d s).txFillA = true := rfl
@[simp] theorem applyReset_txLenA (d : ResetDraw) (s : State) : (applyReset d s).txLenA = 0 := rfl
@[simp] theorem applyReset_txLenB (d : ResetDraw) (s : State) : (applyReset d s).txLenB = 0 := rfl
@[simp] theorem applyReset_txPlayStart (d : ResetDraw) (s : State) : (applyReset d s).txPlayStart = 0 := rfl
@[simp] theorem applyReset_txPlayEnd (d : ResetDraw) (s : State) : (applyReset d s).txPlayEnd = 0 := rfl
@[simp] theorem applyReset_dlmCnt (d : ResetDraw) (s : State) : (applyReset d s).dlmCnt = 0 := rfl
@[simp] theorem applyReset_guardValid (d : ResetDraw) (s : State) : (applyReset d s).guardValid = false := rfl
@[simp] theorem applyReset_guardStart (d : ResetDraw) (s : State) : (applyReset d s).guardStart = 0 := rfl
@[simp] theorem applyReset_txEn (d : ResetDraw) (s : State) : (applyReset d s).txEn = false := rfl
@[simp] theorem applyReset_dbgInd (d : ResetDraw) (s : State) : (applyReset d s).dbgInd = false := rfl
@[simp] theorem applyReset_sampleOut (d : ResetDraw) (s : State) : (applyReset d s).sampleOut = d.sampleOut := rfl
@[simp] theorem applyReset_tickPending (d : ResetDraw) (s : State) : (applyReset d s).tickPending = false := rfl
@[simp] theorem applyReset_tmrNext (d : ResetDraw) (s : State) : (applyReset d s).tmrNext = s.now + BitVec.ofNat 64 s.cfg.tickPeriodUs := rfl
@[simp] theorem applyReset_rxcState (d : ResetDraw) (s : State) : (applyReset d s).rxcState = .idle := rfl
@[simp] theorem applyReset_rxcCnt (d : ResetDraw) (s : State) : (applyReset d s).rxcCnt = 0 := rfl
@[simp] theorem applyReset_rxcSel (d : ResetDraw) (s : State) : (applyReset d s).rxcSel = 0 := rfl
@[simp] theorem applyReset_rxcT0 (d : ResetDraw) (s : State) : (applyReset d s).rxcT0 = 0 := rfl
@[simp] theorem applyReset_loopPhase (d : ResetDraw) (s : State) : (applyReset d s).loopPhase = .iterStart := rfl
@[simp] theorem applyReset_drSnap (d : ResetDraw) (s : State) : (applyReset d s).drSnap = 0 := rfl
@[simp] theorem applyReset_drN (d : ResetDraw) (s : State) : (applyReset d s).drN = 0 := rfl
@[simp] theorem applyReset_drI (d : ResetDraw) (s : State) : (applyReset d s).drI = 0 := rfl
@[simp] theorem applyReset_drActive (d : ResetDraw) (s : State) : (applyReset d s).drActive = false := rfl
@[simp] theorem applyReset_rxBuf (d : ResetDraw) (s : State) : (applyReset d s).rxBuf = [] := rfl
@[simp] theorem applyReset_txBufA (d : ResetDraw) (s : State) : (applyReset d s).txBufA = [] := rfl
@[simp] theorem applyReset_txBufB (d : ResetDraw) (s : State) : (applyReset d s).txBufB = [] := rfl
@[simp] theorem applyReset_scratch (d : ResetDraw) (s : State) : (applyReset d s).scratch = [] := rfl
@[simp] theorem applyReset_rxcPbuf (d : ResetDraw) (s : State) : (applyReset d s).rxcPbuf = [] := rfl
@[simp] theorem applyReset_now (d : ResetDraw) (s : State) : (applyReset d s).now = s.now := rfl
@[simp] theorem applyReset_wdtLast (d : ResetDraw) (s : State) : (applyReset d s).wdtLast = s.now := rfl
@[simp] theorem applyReset_hostIn (d : ResetDraw) (s : State) : (applyReset d s).hostIn = s.hostIn.drop d.drop := rfl
@[simp] theorem applyReset_hostOut (d : ResetDraw) (s : State) : (applyReset d s).hostOut = s.hostOut := rfl
@[simp] theorem applyReset_radio (d : ResetDraw) (s : State) : (applyReset d s).radio = s.radio := rfl
@[simp] theorem applyReset_sampleWr (d : ResetDraw) (s : State) : (applyReset d s).sampleWr = s.sampleWr := rfl
@[simp] theorem applyReset_wdtKick (d : ResetDraw) (s : State) : (applyReset d s).wdtKick = s.wdtKick := rfl
@[simp] theorem applyReset_history (d : ResetDraw) (s : State) : (applyReset d s).history = s.history ++ [⟨s.now, .op .reset, .none⟩] := rfl
@[simp] theorem applyReset_arrayEpoch (d : ResetDraw) (s : State) : (applyReset d s).arrayEpoch = s.arrayEpoch + 1 := rfl
@[simp] theorem applyReset_draws (d : ResetDraw) (s : State) : (applyReset d s).draws = s.draws := rfl
@[simp] theorem applyReset_script (d : ResetDraw) (s : State) : (applyReset d s).script = s.script := rfl

/-! ### hostAppend -/

@[simp] theorem hostAppend_cfg (b : Byte) (s : State) : (hostAppend b s).cfg = s.cfg := rfl
@[simp] theorem hostAppend_mode (b : Byte) (s : State) : (hostAppend b s).mode = s.mode := rfl
@[simp] theorem hostAppend_rxHead (b : Byte) (s : State) : (hostAppend b s).rxHead = s.rxHead := rfl
@[simp] theorem hostAppend_rxTail (b : Byte) (s : State) : (hostAppend b s).rxTail = s.rxTail := rfl
@[simp] theorem hostAppend_txFillA (b : Byte) (s : State) : (hostAppend b s).txFillA = s.txFillA := rfl
@[simp] theorem hostAppend_txLenA (b : Byte) (s : State) : (hostAppend b s).txLenA = s.txLenA := rfl
@[simp] theorem hostAppend_txLenB (b : Byte) (s : State) : (hostAppend b s).txLenB = s.txLenB := rfl
@[simp] theorem hostAppend_txPlayStart (b : Byte) (s : State) : (hostAppend b s).txPlayStart = s.txPlayStart := rfl
@[simp] theorem hostAppend_txPlayEnd (b : Byte) (s : State) : (hostAppend b s).txPlayEnd = s.txPlayEnd := rfl
@[simp] theorem hostAppend_dlmCnt (b : Byte) (s : State) : (hostAppend b s).dlmCnt = s.dlmCnt := rfl
@[simp] theorem hostAppend_guardValid (b : Byte) (s : State) : (hostAppend b s).guardValid = s.guardValid := rfl
@[simp] theorem hostAppend_guardStart (b : Byte) (s : State) : (hostAppend b s).guardStart = s.guardStart := rfl
@[simp] theorem hostAppend_txEn (b : Byte) (s : State) : (hostAppend b s).txEn = s.txEn := rfl
@[simp] theorem hostAppend_dbgInd (b : Byte) (s : State) : (hostAppend b s).dbgInd = s.dbgInd := rfl
@[simp] theorem hostAppend_sampleOut (b : Byte) (s : State) : (hostAppend b s).sampleOut = s.sampleOut := rfl
@[simp] theorem hostAppend_tickPending (b : Byte) (s : State) : (hostAppend b s).tickPending = s.tickPending := rfl
@[simp] theorem hostAppend_tmrNext (b : Byte) (s : State) : (hostAppend b s).tmrNext = s.tmrNext := rfl
@[simp] theorem hostAppend_rxcState (b : Byte) (s : State) : (hostAppend b s).rxcState = s.rxcState := rfl
@[simp] theorem hostAppend_rxcCnt (b : Byte) (s : State) : (hostAppend b s).rxcCnt = s.rxcCnt := rfl
@[simp] theorem hostAppend_rxcSel (b : Byte) (s : State) : (hostAppend b s).rxcSel = s.rxcSel := rfl
@[simp] theorem hostAppend_rxcT0 (b : Byte) (s : State) : (hostAppend b s).rxcT0 = s.rxcT0 := rfl
@[simp] theorem hostAppend_loopPhase (b : Byte) (s : State) : (hostAppend b s).loopPhase = s.loopPhase := rfl
@[simp] theorem hostAppend_drSnap (b : Byte) (s : State) : (hostAppend b s).drSnap = s.drSnap := rfl
@[simp] theorem hostAppend_drN (b : Byte) (s : State) : (hostAppend b s).drN = s.drN := rfl
@[simp] theorem hostAppend_drI (b : Byte) (s : State) : (hostAppend b s).drI = s.drI := rfl
@[simp] theorem hostAppend_drActive (b : Byte) (s : State) : (hostAppend b s).drActive = s.drActive := rfl
@[simp] theorem hostAppend_rxBuf (b : Byte) (s : State) : (hostAppend b s).rxBuf = s.rxBuf := rfl
@[simp] theorem hostAppend_txBufA (b : Byte) (s : State) : (hostAppend b s).txBufA = s.txBufA := rfl
@[simp] theorem hostAppend_txBufB (b : Byte) (s : State) : (hostAppend b s).txBufB = s.txBufB := rfl
@[simp] theorem hostAppend_scratch (b : Byte) (s : State) : (hostAppend b s).scratch = s.scratch := rfl
@[simp] theorem hostAppend_rxcPbuf (b : Byte) (s : State) : (hostAppend b s).rxcPbuf = s.rxcPbuf := rfl
@[simp] theorem hostAppend_now (b : Byte) (s : State) : (hostAppend b s).now = s.now := rfl
@[simp] theorem hostAppend_wdtLast (b : Byte) (s : State) : (hostAppend b s).wdtLast = s.wdtLast := rfl
@[simp] theorem hostAppend_hostIn (b : Byte) (s : State) : (hostAppend b s).hostIn = s.hostIn ++ [b] := rfl
@[simp] theorem hostAppend_hostOut (b : Byte) (s : State) : (hostAppend b s).hostOut = s.hostOut := rfl
@[simp] theorem hostAppend_radio (b : Byte) (s : State) : (hostAppend b s).radio = s.radio := rfl
@[simp] theorem hostAppend_sampleWr (b : Byte) (s : State) : (hostAppend b s).sampleWr = s.sampleWr := rfl
@[simp] theorem hostAppend_wdtKick (b : Byte) (s : State) : (hostAppend b s).wdtKick = s.wdtKick := rfl
@[simp] theorem hostAppend_history (b : Byte) (s : State) : (hostAppend b s).history = s.history ++ [⟨s.now, .op .envHostByte, .byte b⟩] := rfl
@[simp] theorem hostAppend_arrayEpoch (b : Byte) (s : State) : (hostAppend b s).arrayEpoch = s.arrayEpoch := rfl
@[simp] theorem hostAppend_draws (b : Byte) (s : State) : (hostAppend b s).draws = s.draws := rfl
@[simp] theorem hostAppend_script (b : Byte) (s : State) : (hostAppend b s).script = s.script := rfl

/-! ### kickWatchdog -/

@[simp] theorem kickWatchdog_cfg (s : State) : (kickWatchdog s).cfg = s.cfg := rfl
@[simp] theorem kickWatchdog_mode (s : State) : (kickWatchdog s).mode = s.mode := rfl
@[simp] theorem kickWatchdog_rxHead (s : State) : (kickWatchdog s).rxHead = s.rxHead := rfl
@[simp] theorem kickWatchdog_rxTail (s : State) : (kickWatchdog s).rxTail = s.rxTail := rfl
@[simp] theorem kickWatchdog_txFillA (s : State) : (kickWatchdog s).txFillA = s.txFillA := rfl
@[simp] theorem kickWatchdog_txLenA (s : State) : (kickWatchdog s).txLenA = s.txLenA := rfl
@[simp] theorem kickWatchdog_txLenB (s : State) : (kickWatchdog s).txLenB = s.txLenB := rfl
@[simp] theorem kickWatchdog_txPlayStart (s : State) : (kickWatchdog s).txPlayStart = s.txPlayStart := rfl
@[simp] theorem kickWatchdog_txPlayEnd (s : State) : (kickWatchdog s).txPlayEnd = s.txPlayEnd := rfl
@[simp] theorem kickWatchdog_dlmCnt (s : State) : (kickWatchdog s).dlmCnt = s.dlmCnt := rfl
@[simp] theorem kickWatchdog_guardValid (s : State) : (kickWatchdog s).guardValid = s.guardValid := rfl
@[simp] theorem kickWatchdog_guardStart (s : State) : (kickWatchdog s).guardStart = s.guardStart := rfl
@[simp] theorem kickWatchdog_txEn (s : State) : (kickWatchdog s).txEn = s.txEn := rfl
@[simp] theorem kickWatchdog_dbgInd (s : State) : (kickWatchdog s).dbgInd = s.dbgInd := rfl
@[simp] theorem kickWatchdog_sampleOut (s : State) : (kickWatchdog s).sampleOut = s.sampleOut := rfl
@[simp] theorem kickWatchdog_tickPending (s : State) : (kickWatchdog s).tickPending = s.tickPending := rfl
@[simp] theorem kickWatchdog_tmrNext (s : State) : (kickWatchdog s).tmrNext = s.tmrNext := rfl
@[simp] theorem kickWatchdog_rxcState (s : State) : (kickWatchdog s).rxcState = s.rxcState := rfl
@[simp] theorem kickWatchdog_rxcCnt (s : State) : (kickWatchdog s).rxcCnt = s.rxcCnt := rfl
@[simp] theorem kickWatchdog_rxcSel (s : State) : (kickWatchdog s).rxcSel = s.rxcSel := rfl
@[simp] theorem kickWatchdog_rxcT0 (s : State) : (kickWatchdog s).rxcT0 = s.rxcT0 := rfl
@[simp] theorem kickWatchdog_loopPhase (s : State) : (kickWatchdog s).loopPhase = s.loopPhase := rfl
@[simp] theorem kickWatchdog_drSnap (s : State) : (kickWatchdog s).drSnap = s.drSnap := rfl
@[simp] theorem kickWatchdog_drN (s : State) : (kickWatchdog s).drN = s.drN := rfl
@[simp] theorem kickWatchdog_drI (s : State) : (kickWatchdog s).drI = s.drI := rfl
@[simp] theorem kickWatchdog_drActive (s : State) : (kickWatchdog s).drActive = s.drActive := rfl
@[simp] theorem kickWatchdog_rxBuf (s : State) : (kickWatchdog s).rxBuf = s.rxBuf := rfl
@[simp] theorem kickWatchdog_txBufA (s : State) : (kickWatchdog s).txBufA = s.txBufA := rfl
@[simp] theorem kickWatchdog_txBufB (s : State) : (kickWatchdog s).txBufB = s.txBufB := rfl
@[simp] theorem kickWatchdog_scratch (s : State) : (kickWatchdog s).scratch = s.scratch := rfl
@[simp] theorem kickWatchdog_rxcPbuf (s : State) : (kickWatchdog s).rxcPbuf = s.rxcPbuf := rfl
@[simp] theorem kickWatchdog_now (s : State) : (kickWatchdog s).now = s.now := rfl
@[simp] theorem kickWatchdog_wdtLast (s : State) : (kickWatchdog s).wdtLast = s.now := rfl
@[simp] theorem kickWatchdog_hostIn (s : State) : (kickWatchdog s).hostIn = s.hostIn := rfl
@[simp] theorem kickWatchdog_hostOut (s : State) : (kickWatchdog s).hostOut = s.hostOut := rfl
@[simp] theorem kickWatchdog_radio (s : State) : (kickWatchdog s).radio = s.radio := rfl
@[simp] theorem kickWatchdog_sampleWr (s : State) : (kickWatchdog s).sampleWr = s.sampleWr := rfl
@[simp] theorem kickWatchdog_wdtKick (s : State) : (kickWatchdog s).wdtKick = s.wdtKick ++ [s.now] := rfl
@[simp] theorem kickWatchdog_history (s : State) : (kickWatchdog s).history = (s.history ++ [⟨s.now, .op .wdtKick, .none⟩]) ++ [⟨s.now, .emit (.wdtKick s.now), .none⟩] := rfl
@[simp] theorem kickWatchdog_arrayEpoch (s : State) : (kickWatchdog s).arrayEpoch = s.arrayEpoch := rfl
@[simp] theorem kickWatchdog_draws (s : State) : (kickWatchdog s).draws = s.draws := rfl
@[simp] theorem kickWatchdog_script (s : State) : (kickWatchdog s).script = s.script := rfl

/-! ### swapBuffers -/

@[simp] theorem swapBuffers_cfg (s : State) : (swapBuffers s).cfg = s.cfg := rfl
@[simp] theorem swapBuffers_mode (s : State) : (swapBuffers s).mode = s.mode := rfl
@[simp] theorem swapBuffers_rxHead (s : State) : (swapBuffers s).rxHead = s.rxHead := rfl
@[simp] theorem swapBuffers_rxTail (s : State) : (swapBuffers s).rxTail = s.rxTail := rfl
@[simp] theorem swapBuffers_txFillA (s : State) : (swapBuffers s).txFillA = !s.txFillA := rfl
@[simp] theorem swapBuffers_txLenA (s : State) : (swapBuffers s).txLenA = if s.txFillA then s.txLenA else 0 := rfl
@[simp] theorem swapBuffers_txLenB (s : State) : (swapBuffers s).txLenB = if s.txFillA then 0 else s.txLenB := rfl
@[simp] theorem swapBuffers_txPlayStart (s : State) : (swapBuffers s).txPlayStart = s.now := rfl
@[simp] theorem swapBuffers_txPlayEnd (s : State) : (swapBuffers s).txPlayEnd = BitVec.ofNat 64 (s.now.toNat + playDuration s.cfg (fillingLen s)) := rfl
@[simp] theorem swapBuffers_dlmCnt (s : State) : (swapBuffers s).dlmCnt = s.dlmCnt := rfl
@[simp] theorem swapBuffers_guardValid (s : State) : (swapBuffers s).guardValid = s.guardValid := rfl
@[simp] theorem swapBuffers_guardStart (s : State) : (swapBuffers s).guardStart = s.guardStart := rfl
@[simp] theorem swapBuffers_txEn (s : State) : (swapBuffers s).txEn = s.txEn := rfl
@[simp] theorem swapBuffers_dbgInd (s : State) : (swapBuffers s).dbgInd = s.dbgInd := rfl
@[simp] theorem swapBuffers_sampleOut (s : State) : (swapBuffers s).sampleOut = s.sampleOut := rfl
@[simp] theorem swapBuffers_tickPending (s : State) : (swapBuffers s).tickPending = s.tickPending := rfl
@[simp] theorem swapBuffers_tmrNext (s : State) : (swapBuffers s).tmrNext = s.tmrNext := rfl
@[simp] theorem swapBuffers_rxcState (s : State) : (swapBuffers s).rxcState = s.rxcState := rfl
@[simp] theorem swapBuffers_rxcCnt (s : State) : (swapBuffers s).rxcCnt = s.rxcCnt := rfl
@[simp] theorem swapBuffers_rxcSel (s : State) : (swapBuffers s).rxcSel = s.rxcSel := rfl
@[simp] theorem swapBuffers_rxcT0 (s : State) : (swapBuffers s).rxcT0 = s.rxcT0 := rfl
@[simp] theorem swapBuffers_loopPhase (s : State) : (swapBuffers s).loopPhase = s.loopPhase := rfl
@[simp] theorem swapBuffers_drSnap (s : State) : (swapBuffers s).drSnap = s.drSnap := rfl
@[simp] theorem swapBuffers_drN (s : State) : (swapBuffers s).drN = s.drN := rfl
@[simp] theorem swapBuffers_drI (s : State) : (swapBuffers s).drI = s.drI := rfl
@[simp] theorem swapBuffers_drActive (s : State) : (swapBuffers s).drActive = s.drActive := rfl
@[simp] theorem swapBuffers_rxBuf (s : State) : (swapBuffers s).rxBuf = s.rxBuf := rfl
@[simp] theorem swapBuffers_txBufA (s : State) : (swapBuffers s).txBufA = s.txBufA := rfl
@[simp] theorem swapBuffers_txBufB (s : State) : (swapBuffers s).txBufB = s.txBufB := rfl
@[simp] theorem swapBuffers_scratch (s : State) : (swapBuffers s).scratch = s.scratch := rfl
@[simp] theorem swapBuffers_rxcPbuf (s : State) : (swapBuffers s).rxcPbuf = s.rxcPbuf := rfl
@[simp] theorem swapBuffers_now (s : State) : (swapBuffers s).now = s.now := rfl
@[simp] theorem swapBuffers_wdtLast (s : State) : (swapBuffers s).wdtLast = s.wdtLast := rfl
@[simp] theorem swapBuffers_hostIn (s : State) : (swapBuffers s).hostIn = s.hostIn := rfl
@[simp] theorem swapBuffers_hostOut (s : State) : (swapBuffers s).hostOut = s.hostOut := rfl
@[simp] theorem swapBuffers_radio (s : State) : (swapBuffers s).radio = s.radio := rfl
@[simp] theorem swapBuffers_sampleWr (s : State) : (swapBuffers s).sampleWr = s.sampleWr := rfl
@[simp] theorem swapBuffers_wdtKick (s : State) : (swapBuffers s).wdtKick = s.wdtKick := rfl
@[simp] theorem swapBuffers_history (s : State) : (swapBuffers s).history = s.history ++ [⟨s.now, .op .txSwap, .none⟩] := rfl
@[simp] theorem swapBuffers_arrayEpoch (s : State) : (swapBuffers s).arrayEpoch = s.arrayEpoch := rfl
@[simp] theorem swapBuffers_draws (s : State) : (swapBuffers s).draws = s.draws := rfl
@[simp] theorem swapBuffers_script (s : State) : (swapBuffers s).script = s.script := rfl

/-! ### completeCommand -/

@[simp] theorem completeCommand_cfg (s : State) : (completeCommand s).cfg = s.cfg := rfl
@[simp] theorem completeCommand_mode (s : State) : (completeCommand s).mode = s.mode := rfl
@[simp] theorem completeCommand_rxHead (s : State) : (completeCommand s).rxHead = s.rxHead := rfl
@[simp] theorem completeCommand_rxTail (s : State) : (completeCommand s).rxTail = s.rxTail := rfl
@[simp] theorem completeCommand_txFillA (s : State) : (completeCommand s).txFillA = s.txFillA := rfl
@[simp] theorem completeCommand_txLenA (s : State) : (completeCommand s).txLenA = s.txLenA := rfl
@[simp] theorem completeCommand_txLenB (s : State) : (completeCommand s).txLenB = s.txLenB := rfl
@[simp] theorem completeCommand_txPlayStart (s : State) : (completeCommand s).txPlayStart = s.txPlayStart := rfl
@[simp] theorem completeCommand_txPlayEnd (s : State) : (completeCommand s).txPlayEnd = s.txPlayEnd := rfl
@[simp] theorem completeCommand_dlmCnt (s : State) : (completeCommand s).dlmCnt = s.dlmCnt := rfl
@[simp] theorem completeCommand_guardValid (s : State) : (completeCommand s).guardValid = s.guardValid := rfl
@[simp] theorem completeCommand_guardStart (s : State) : (completeCommand s).guardStart = s.guardStart := rfl
@[simp] theorem completeCommand_txEn (s : State) : (completeCommand s).txEn = s.txEn := rfl
@[simp] theorem completeCommand_dbgInd (s : State) : (completeCommand s).dbgInd = s.dbgInd := rfl
@[simp] theorem completeCommand_sampleOut (s : State) : (completeCommand s).sampleOut = s.sampleOut := rfl
@[simp] theorem completeCommand_tickPending (s : State) : (completeCommand s).tickPending = s.tickPending := rfl
@[simp] theorem completeCommand_tmrNext (s : State) : (completeCommand s).tmrNext = s.tmrNext := rfl
@[simp] theorem completeCommand_rxcState (s : State) : (completeCommand s).rxcState = .idle := rfl
@[simp] theorem completeCommand_rxcCnt (s : State) : (completeCommand s).rxcCnt = 0 := rfl
@[simp] theorem completeCommand_rxcSel (s : State) : (completeCommand s).rxcSel = s.rxcSel := rfl
@[simp] theorem completeCommand_rxcT0 (s : State) : (completeCommand s).rxcT0 = s.rxcT0 := rfl
@[simp] theorem completeCommand_loopPhase (s : State) : (completeCommand s).loopPhase = if s.mode = .receive then .rxDrain else .iterStart := rfl
@[simp] theorem completeCommand_drSnap (s : State) : (completeCommand s).drSnap = s.drSnap := rfl
@[simp] theorem completeCommand_drN (s : State) : (completeCommand s).drN = s.drN := rfl
@[simp] theorem completeCommand_drI (s : State) : (completeCommand s).drI = s.drI := rfl
@[simp] theorem completeCommand_drActive (s : State) : (completeCommand s).drActive = s.drActive := rfl
@[simp] theorem completeCommand_rxBuf (s : State) : (completeCommand s).rxBuf = s.rxBuf := rfl
@[simp] theorem completeCommand_txBufA (s : State) : (completeCommand s).txBufA = s.txBufA := rfl
@[simp] theorem completeCommand_txBufB (s : State) : (completeCommand s).txBufB = s.txBufB := rfl
@[simp] theorem completeCommand_scratch (s : State) : (completeCommand s).scratch = s.scratch := rfl
@[simp] theorem completeCommand_rxcPbuf (s : State) : (completeCommand s).rxcPbuf = s.rxcPbuf := rfl
@[simp] theorem completeCommand_now (s : State) : (completeCommand s).now = s.now := rfl
@[simp] theorem completeCommand_wdtLast (s : State) : (completeCommand s).wdtLast = s.wdtLast := rfl
@[simp] theorem completeCommand_hostIn (s : State) : (completeCommand s).hostIn = s.hostIn := rfl
@[simp] theorem completeCommand_hostOut (s : State) : (completeCommand s).hostOut = s.hostOut := rfl
@[simp] theorem completeCommand_radio (s : State) : (completeCommand s).radio = s.radio := rfl
@[simp] theorem completeCommand_sampleWr (s : State) : (completeCommand s).sampleWr = s.sampleWr := rfl
@[simp] theorem completeCommand_wdtKick (s : State) : (completeCommand s).wdtKick = s.wdtKick := rfl
@[simp] theorem completeCommand_history (s : State) : (completeCommand s).history = s.history := rfl
@[simp] theorem completeCommand_arrayEpoch (s : State) : (completeCommand s).arrayEpoch = s.arrayEpoch := rfl
@[simp] theorem completeCommand_draws (s : State) : (completeCommand s).draws = s.draws := rfl
@[simp] theorem completeCommand_script (s : State) : (completeCommand s).script = s.script := rfl

/-! ### nextDraw -/

@[simp] theorem nextDraw_cfg (s : State) : (nextDraw s).cfg = s.cfg := rfl
@[simp] theorem nextDraw_mode (s : State) : (nextDraw s).mode = s.mode := rfl
@[simp] theorem nextDraw_rxHead (s : State) : (nextDraw s).rxHead = s.rxHead := rfl
@[simp] theorem nextDraw_rxTail (s : State) : (nextDraw s).rxTail = s.rxTail := rfl
@[simp] theorem nextDraw_txFillA (s : State) : (nextDraw s).txFillA = s.txFillA := rfl
@[simp] theorem nextDraw_txLenA (s : State) : (nextDraw s).txLenA = s.txLenA := rfl
@[simp] theorem nextDraw_txLenB (s : State) : (nextDraw s).txLenB = s.txLenB := rfl
@[simp] theorem nextDraw_txPlayStart (s : State) : (nextDraw s).txPlayStart = s.txPlayStart := rfl
@[simp] theorem nextDraw_txPlayEnd (s : State) : (nextDraw s).txPlayEnd = s.txPlayEnd := rfl
@[simp] theorem nextDraw_dlmCnt (s : State) : (nextDraw s).dlmCnt = s.dlmCnt := rfl
@[simp] theorem nextDraw_guardValid (s : State) : (nextDraw s).guardValid = s.guardValid := rfl
@[simp] theorem nextDraw_guardStart (s : State) : (nextDraw s).guardStart = s.guardStart := rfl
@[simp] theorem nextDraw_txEn (s : State) : (nextDraw s).txEn = s.txEn := rfl
@[simp] theorem nextDraw_dbgInd (s : State) : (nextDraw s).dbgInd = s.dbgInd := rfl
@[simp] theorem nextDraw_sampleOut (s : State) : (nextDraw s).sampleOut = s.sampleOut := rfl
@[simp] theorem nextDraw_tickPending (s : State) : (nextDraw s).tickPending = s.tickPending := rfl
@[simp] theorem nextDraw_tmrNext (s : State) : (nextDraw s).tmrNext = s.tmrNext := rfl
@[simp] theorem nextDraw_rxcState (s : State) : (nextDraw s).rxcState = s.rxcState := rfl
@[simp] theorem nextDraw_rxcCnt (s : State) : (nextDraw s).rxcCnt = s.rxcCnt := rfl
@[simp] theorem nextDraw_rxcSel (s : State) : (nextDraw s).rxcSel = s.rxcSel := rfl
@[simp] theorem nextDraw_rxcT0 (s : State) : (nextDraw s).rxcT0 = s.rxcT0 := rfl
@[simp] theorem nextDraw_loopPhase (s : State) : (nextDraw s).loopPhase = s.loopPhase := rfl
@[simp] theorem nextDraw_drSnap (s : State) : (nextDraw s).drSnap = s.drSnap := rfl
@[simp] theorem nextDraw_drN (s : State) : (nextDraw s).drN = s.drN := rfl
@[simp] theorem nextDraw_drI (s : State) : (nextDraw s).drI = s.drI := rfl
@[simp] theorem nextDraw_drActive (s : State) : (nextDraw s).drActive = s.drActive := rfl
@[simp] theorem nextDraw_rxBuf (s : State) : (nextDraw s).rxBuf = s.rxBuf := rfl
@[simp] theorem nextDraw_txBufA (s : State) : (nextDraw s).txBufA = s.txBufA := rfl
@[simp] theorem nextDraw_txBufB (s : State) : (nextDraw s).txBufB = s.txBufB := rfl
@[simp] theorem nextDraw_scratch (s : State) : (nextDraw s).scratch = s.scratch := rfl
@[simp] theorem nextDraw_rxcPbuf (s : State) : (nextDraw s).rxcPbuf = s.rxcPbuf := rfl
@[simp] theorem nextDraw_now (s : State) : (nextDraw s).now = s.now := rfl
@[simp] theorem nextDraw_wdtLast (s : State) : (nextDraw s).wdtLast = s.wdtLast := rfl
@[simp] theorem nextDraw_hostIn (s : State) : (nextDraw s).hostIn = s.hostIn := rfl
@[simp] theorem nextDraw_hostOut (s : State) : (nextDraw s).hostOut = s.hostOut := rfl
@[simp] theorem nextDraw_radio (s : State) : (nextDraw s).radio = s.radio := rfl
@[simp] theorem nextDraw_sampleWr (s : State) : (nextDraw s).sampleWr = s.sampleWr := rfl
@[simp] theorem nextDraw_wdtKick (s : State) : (nextDraw s).wdtKick = s.wdtKick := rfl
@[simp] theorem nextDraw_history (s : State) : (nextDraw s).history = s.history := rfl
@[simp] theorem nextDraw_arrayEpoch (s : State) : (nextDraw s).arrayEpoch = s.arrayEpoch := rfl
@[simp] theorem nextDraw_draws (s : State) : (nextDraw s).draws = s.draws + 1 := rfl
@[simp] theorem nextDraw_script (s : State) : (nextDraw s).script = s.script := rfl

/-! ### popScript -/

@[simp] theorem popScript_cfg (s : State) : (popScript s).cfg = s.cfg := rfl
@[simp] theorem popScript_mode (s : State) : (popScript s).mode = s.mode := rfl
@[simp] theorem popScript_rxHead (s : State) : (popScript s).rxHead = s.rxHead := rfl
@[simp] theorem popScript_rxTail (s : State) : (popScript s).rxTail = s.rxTail := rfl
@[simp] theorem popScript_txFillA (s : State) : (popScript s).txFillA = s.txFillA := rfl
@[simp] theorem popScript_txLenA (s : State) : (popScript s).txLenA = s.txLenA := rfl
@[simp] theorem popScript_txLenB (s : State) : (popScript s).txLenB = s.txLenB := rfl
@[simp] theorem popScript_txPlayStart (s : State) : (popScript s).txPlayStart = s.txPlayStart := rfl
@[simp] theorem popScript_txPlayEnd (s : State) : (popScript s).txPlayEnd = s.txPlayEnd := rfl
@[simp] theorem popScript_dlmCnt (s : State) : (popScript s).dlmCnt = s.dlmCnt := rfl
@[simp] theorem popScript_guardValid (s : State) : (popScript s).guardValid = s.guardValid := rfl
@[simp] theorem popScript_guardStart (s : State) : (popScript s).guardStart = s.guardStart := rfl
@[simp] theorem popScript_txEn (s : State) : (popScript s).txEn = s.txEn := rfl
@[simp] theorem popScript_dbgInd (s : State) : (popScript s).dbgInd = s.dbgInd := rfl
@[simp] theorem popScript_sampleOut (s : State) : (popScript s).sampleOut = s.sampleOut := rfl
@[simp] theorem popScript_tickPending (s : State) : (popScript s).tickPending = s.tickPending := rfl
@[simp] theorem popScript_tmrNext (s : State) : (popScript s).tmrNext = s.tmrNext := rfl
@[simp] theorem popScript_rxcState (s : State) : (popScript s).rxcState = s.rxcState := rfl
@[simp] theorem popScript_rxcCnt (s : State) : (popScript s).rxcCnt = s.rxcCnt := rfl
@[simp] theorem popScript_rxcSel (s : State) : (popScript s).rxcSel = s.rxcSel := rfl
@[simp] theorem popScript_rxcT0 (s : State) : (popScript s).rxcT0 = s.rxcT0 := rfl
@[simp] theorem popScript_loopPhase (s : State) : (popScript s).loopPhase = s.loopPhase := rfl
@[simp] theorem popScript_drSnap (s : State) : (popScript s).drSnap = s.drSnap := rfl
@[simp] theorem popScript_drN (s : State) : (popScript s).drN = s.drN := rfl
@[simp] theorem popScript_drI (s : State) : (popScript s).drI = s.drI := rfl
@[simp] theorem popScript_drActive (s : State) : (popScript s).drActive = s.drActive := rfl
@[simp] theorem popScript_rxBuf (s : State) : (popScript s).rxBuf = s.rxBuf := rfl
@[simp] theorem popScript_txBufA (s : State) : (popScript s).txBufA = s.txBufA := rfl
@[simp] theorem popScript_txBufB (s : State) : (popScript s).txBufB = s.txBufB := rfl
@[simp] theorem popScript_scratch (s : State) : (popScript s).scratch = s.scratch := rfl
@[simp] theorem popScript_rxcPbuf (s : State) : (popScript s).rxcPbuf = s.rxcPbuf := rfl
@[simp] theorem popScript_now (s : State) : (popScript s).now = s.now := rfl
@[simp] theorem popScript_wdtLast (s : State) : (popScript s).wdtLast = s.wdtLast := rfl
@[simp] theorem popScript_hostIn (s : State) : (popScript s).hostIn = s.hostIn := rfl
@[simp] theorem popScript_hostOut (s : State) : (popScript s).hostOut = s.hostOut := rfl
@[simp] theorem popScript_radio (s : State) : (popScript s).radio = s.radio := rfl
@[simp] theorem popScript_sampleWr (s : State) : (popScript s).sampleWr = s.sampleWr := rfl
@[simp] theorem popScript_wdtKick (s : State) : (popScript s).wdtKick = s.wdtKick := rfl
@[simp] theorem popScript_history (s : State) : (popScript s).history = s.history := rfl
@[simp] theorem popScript_arrayEpoch (s : State) : (popScript s).arrayEpoch = s.arrayEpoch := rfl
@[simp] theorem popScript_draws (s : State) : (popScript s).draws = s.draws := rfl
@[simp] theorem popScript_script (s : State) : (popScript s).script = s.script.tail := rfl

/-! ### unlogged -/

@[simp] theorem unlogged_cfg (s : State) : (unlogged s).cfg = s.cfg := rfl
@[simp] theorem unlogged_mode (s : State) : (unlogged s).mode = s.mode := rfl
@[simp] theorem unlogged_rxHead (s : State) : (unlogged s).rxHead = s.rxHead := rfl
@[simp] theorem unlogged_rxTail (s : State) : (unlogged s).rxTail = s.rxTail := rfl
@[simp] theorem unlogged_txFillA (s : State) : (unlogged s).txFillA = s.txFillA := rfl
@[simp] theorem unlogged_txLenA (s : State) : (unlogged s).txLenA = s.txLenA := rfl
@[simp] theorem unlogged_txLenB (s : State) : (unlogged s).txLenB = s.txLenB := rfl
@[simp] theorem unlogged_txPlayStart (s : State) : (unlogged s).txPlayStart = s.txPlayStart := rfl
@[simp] theorem unlogged_txPlayEnd (s : State) : (unlogged s).txPlayEnd = s.txPlayEnd := rfl
@[simp] theorem unlogged_dlmCnt (s : State) : (unlogged s).dlmCnt = s.dlmCnt := rfl
@[simp] theorem unlogged_guardValid (s : State) : (unlogged s).guardValid = s.guardValid := rfl
@[simp] theorem unlogged_guardStart (s : State) : (unlogged s).guardStart = s.guardStart := rfl
@[simp] theorem unlogged_txEn (s : State) : (unlogged s).txEn = s.txEn := rfl
@[simp] theorem unlogged_dbgInd (s : State) : (unlogged s).dbgInd = s.dbgInd := rfl
@[simp] theorem unlogged_sampleOut (s : State) : (unlogged s).sampleOut = s.sampleOut := rfl
@[simp] theorem unlogged_tickPending (s : State) : (unlogged s).tickPending = s.tickPending := rfl
@[simp] theorem unlogged_tmrNext (s : State) : (unlogged s).tmrNext = s.tmrNext := rfl
@[simp] theorem unlogged_rxcState (s : State) : (unlogged s).rxcState = s.rxcState := rfl
@[simp] theorem unlogged_rxcCnt (s : State) : (unlogged s).rxcCnt = s.rxcCnt := rfl
@[simp] theorem unlogged_rxcSel (s : State) : (unlogged s).rxcSel = s.rxcSel := rfl
@[simp] theorem unlogged_rxcT0 (s : State) : (unlogged s).rxcT0 = s.rxcT0 := rfl
@[simp] theorem unlogged_loopPhase (s : State) : (unlogged s).loopPhase = s.loopPhase := rfl
@[simp] theorem unlogged_drSnap (s : State) : (unlogged s).drSnap = s.drSnap := rfl
@[simp] theorem unlogged_drN (s : State) : (unlogged s).drN = s.drN := rfl
@[simp] theorem unlogged_drI (s : State) : (unlogged s).drI = s.drI := rfl
@[simp] theorem unlogged_drActive (s : State) : (unlogged s).drActive = s.drActive := rfl
@[simp] theorem unlogged_rxBuf (s : State) : (unlogged s).rxBuf = s.rxBuf := rfl
@[simp] theorem unlogged_txBufA (s : State) : (unlogged s).txBufA = s.txBufA := rfl
@[simp] theorem unlogged_txBufB (s : State) : (unlogged s).txBufB = s.txBufB := rfl
@[simp] theorem unlogged_scratch (s : State) : (unlogged s).scratch = s.scratch := rfl
@[simp] theorem unlogged_rxcPbuf (s : State) : (unlogged s).rxcPbuf = s.rxcPbuf := rfl
@[simp] theorem unlogged_now (s : State) : (unlogged s).now = s.now := rfl
@[simp] theorem unlogged_wdtLast (s : State) : (unlogged s).wdtLast = s.wdtLast := rfl
@[simp] theorem unlogged_hostIn (s : State) : (unlogged s).hostIn = s.hostIn := rfl
@[simp] theorem unlogged_hostOut (s : State) : (unlogged s).hostOut = s.hostOut := rfl
@[simp] theorem unlogged_radio (s : State) : (unlogged s).radio = s.radio := rfl
@[simp] theorem unlogged_sampleWr (s : State) : (unlogged s).sampleWr = s.sampleWr := rfl
@[simp] theorem unlogged_wdtKick (s : State) : (unlogged s).wdtKick = s.wdtKick := rfl
@[simp] theorem unlogged_history (s : State) : (unlogged s).history = [] := rfl
@[simp] theorem unlogged_arrayEpoch (s : State) : (unlogged s).arrayEpoch = s.arrayEpoch := rfl
@[simp] theorem unlogged_draws (s : State) : (unlogged s).draws = s.draws := rfl
@[simp] theorem unlogged_script (s : State) : (unlogged s).script = s.script := rfl

/-! ### setArray -/

@[simp] theorem setArray_cfg (a : ArrayName) (m : Mem) (s : State) : (setArray a m s).cfg = s.cfg := by
  cases a <;> rfl
@[simp] theorem setArray_mode (a : ArrayName) (m : Mem) (s : State) : (setArray a m s).mode = s.mode := by
  cases a <;> rfl
@[simp] theorem setArray_rxHead (a : ArrayName) (m : Mem) (s : State) : (setArray a m s).rxHead = s.rxHead := by
  cases a <;> rfl
@[simp] theorem setArray_rxTail (a : ArrayName) (m : Mem) (s : State) : (setArray a m s).rxTail = s.rxTail := by
  cases a <;> rfl
@[simp] theorem setArray_txFillA (a : ArrayName) (m : Mem) (s : State) : (setArray a m s).txFillA = s.txFillA := by
  cases a <;> rfl
@[simp] theorem setArray_txLenA (a : ArrayName) (m : Mem) (s : State) : (setArray a m s).txLenA = s.txLenA := by
  cases a <;> rfl
@[simp] theorem setArray_txLenB (a : ArrayName) (m : Mem) (s : State) : (setArray a m s).txLenB = s.txLenB := by
  cases a <;> rfl
@[simp] theorem setArray_txPlayStart (a : ArrayName) (m : Mem) (s : State) : (setArray a m s).txPlayStart = s.txPlayStart := by
  cases a <;> rfl
@[simp] theorem setArray_txPlayEnd (a : ArrayName) (m : Mem) (s : State) : (setArray a m s).txPlayEnd = s.txPlayEnd := by
  cases a <;> rfl
@[simp] theorem setArray_dlmCnt (a : ArrayName) (m : Mem) (s : State) : (setArray a m s).dlmCnt = s.dlmCnt := by
  cases a <;> rfl
@[simp] theorem setArray_guardValid (a : ArrayName) (m : Mem) (s : State) : (setArray a m s).guardValid = s.guardValid := by
  cases a <;> rfl
@[simp] theorem setArray_guardStart (a : ArrayName) (m : Mem) (s : State) : (setArray a m s).guardStart = s.guardStart := by
  cases a <;> rfl
@[simp] theorem setArray_txEn (a : ArrayName) (m : Mem) (s : State) : (setArray a m s).txEn = s.txEn := by
  cases a <;> rfl
@[simp] theorem setArray_dbgInd (a : ArrayName) (m : Mem) (s : State) : (setArray a m s).dbgInd = s.dbgInd := by
  cases a <;> rfl
@[simp] theorem setArray_sampleOut (a : ArrayName) (m : Mem) (s : State) : (setArray a m s).sampleOut = s.sampleOut := by
  cases a <;> rfl
@[simp] theorem setArray_tickPending (a : ArrayName) (m : Mem) (s : State) : (setArray a m s).tickPending = s.tickPending := by
  cases a <;> rfl
@[simp] theorem setArray_tmrNext (a : ArrayName) (m : Mem) (s : State) : (setArray a m s).tmrNext = s.tmrNext := by
  cases a <;> rfl
@[simp] theorem setArray_rxcState (a : ArrayName) (m : Mem) (s : State) : (setArray a m s).rxcState = s.rxcState := by
  cases a <;> rfl
@[simp] theorem setArray_rxcCnt (a : ArrayName) (m : Mem) (s : State) : (setArray a m s).rxcCnt = s.rxcCnt := by
  cases a <;> rfl
@[simp] theorem setArray_rxcSel (a : ArrayName) (m : Mem) (s : State) : (setArray a m s).rxcSel = s.rxcSel := by
  cases a <;> rfl
@[simp] theorem setArray_rxcT0 (a : ArrayName) (m : Mem) (s : State) : (setArray a m s).rxcT0 = s.rxcT0 := by
  cases a <;> rfl
@[simp] theorem setArray_loopPhase (a : ArrayName) (m : Mem) (s : State) : (setArray a m s).loopPhase = s.loopPhase := by
  cases a <;> rfl
@[simp] theorem setArray_drSnap (a : ArrayName) (m : Mem) (s : State) : (setArray a m s).drSnap = s.drSnap := by
  cases a <;> rfl
@[simp] theorem setArray_drN (a : ArrayName) (m : Mem) (s : State) : (setArray a m s).drN = s.drN := by
  cases a <;> rfl
@[simp] theorem setArray_drI (a : ArrayName) (m : Mem) (s : State) : (setArray a m s).drI = s.drI := by
  cases a <;> rfl
@[simp] theorem setArray_drActive (a : ArrayName) (m : Mem) (s : State) : (setArray a m s).drActive = s.drActive := by
  cases a <;> rfl
@[simp] theorem setArray_now (a : ArrayName) (m : Mem) (s : State) : (setArray a m s).now = s.now := by
  cases a <;> rfl
@[simp] theorem setArray_wdtLast (a : ArrayName) (m : Mem) (s : State) : (setArray a m s).wdtLast = s.wdtLast := by
  cases a <;> rfl
@[simp] theorem setArray_hostIn (a : ArrayName) (m : Mem) (s : State) : (setArray a m s).hostIn = s.hostIn := by
  cases a <;> rfl
@[simp] theorem setArray_hostOut (a : ArrayName) (m : Mem) (s : State) : (setArray a m s).hostOut = s.hostOut := by
  cases a <;> rfl
@[simp] theorem setArray_radio (a : ArrayName) (m : Mem) (s : State) : (setArray a m s).radio = s.radio := by
  cases a <;> rfl
@[simp] theorem setArray_sampleWr (a : ArrayName) (m : Mem) (s : State) : (setArray a m s).sampleWr = s.sampleWr := by
  cases a <;> rfl
@[simp] theorem setArray_wdtKick (a : ArrayName) (m : Mem) (s : State) : (setArray a m s).wdtKick = s.wdtKick := by
  cases a <;> rfl
@[simp] theorem setArray_history (a : ArrayName) (m : Mem) (s : State) : (setArray a m s).history = s.history := by
  cases a <;> rfl
@[simp] theorem setArray_arrayEpoch (a : ArrayName) (m : Mem) (s : State) : (setArray a m s).arrayEpoch = s.arrayEpoch := by
  cases a <;> rfl
@[simp] theorem setArray_draws (a : ArrayName) (m : Mem) (s : State) : (setArray a m s).draws = s.draws := by
  cases a <;> rfl
@[simp] theorem setArray_script (a : ArrayName) (m : Mem) (s : State) : (setArray a m s).script = s.script := by
  cases a <;> rfl

/-! ### emit -/

@[simp] theorem emit_cfg (x : Emission) (s : State) : (emit x s).cfg = s.cfg := by
  cases x <;> rfl
@[simp] theorem emit_mode (x : Emission) (s : State) : (emit x s).mode = s.mode := by
  cases x <;> rfl
@[simp] theorem emit_rxHead (x : Emission) (s : State) : (emit x s).rxHead = s.rxHead := by
  cases x <;> rfl
@[simp] theorem emit_rxTail (x : Emission) (s : State) : (emit x s).rxTail = s.rxTail := by
  cases x <;> rfl
@[simp] theorem emit_txFillA (x : Emission) (s : State) : (emit x s).txFillA = s.txFillA := by
  cases x <;> rfl
@[simp] theorem emit_txLenA (x : Emission) (s : State) : (emit x s).txLenA = s.txLenA := by
  cases x <;> rfl
@[simp] theorem emit_txLenB (x : Emission) (s : State) : (emit x s).txLenB = s.txLenB := by
  cases x <;> rfl
@[simp] theorem emit_txPlayStart (x : Emission) (s : State) : (emit x s).txPlayStart = s.txPlayStart := by
  cases x <;> rfl
@[simp] theorem emit_txPlayEnd (x : Emission) (s : State) : (emit x s).txPlayEnd = s.txPlayEnd := by
  cases x <;> rfl
@[simp] theorem emit_dlmCnt (x : Emission) (s : State) : (emit x s).dlmCnt = s.dlmCnt := by
  cases x <;> rfl
@[simp] theorem emit_guardValid (x : Emission) (s : State) : (emit x s).guardValid = s.guardValid := by
  cases x <;> rfl
@[simp] theorem emit_guardStart (x : Emission) (s : State) : (emit x s).guardStart = s.guardStart := by
  cases x <;> rfl
@[simp] theorem emit_txEn (x : Emission) (s : State) : (emit x s).txEn = s.txEn := by
  cases x <;> rfl
@[simp] theorem emit_dbgInd (x : Emission) (s : State) : (emit x s).dbgInd = s.dbgInd := by
  cases x <;> rfl
@[simp] theorem emit_sampleOut (x : Emission) (s : State) : (emit x s).sampleOut = s.sampleOut := by
  cases x <;> rfl
@[simp] theorem emit_tickPending (x : Emission) (s : State) : (emit x s).tickPending = s.tickPending := by
  cases x <;> rfl
@[simp] theorem emit_tmrNext (x : Emission) (s : State) : (emit x s).tmrNext = s.tmrNext := by
  cases x <;> rfl
@[simp] theorem emit_rxcState (x : Emission) (s : State) : (emit x s).rxcState = s.rxcState := by
  cases x <;> rfl
@[simp] theorem emit_rxcCnt (x : Emission) (s : State) : (emit x s).rxcCnt = s.rxcCnt := by
  cases x <;> rfl
@[simp] theorem emit_rxcSel (x : Emission) (s : State) : (emit x s).rxcSel = s.rxcSel := by
  cases x <;> rfl
@[simp] theorem emit_rxcT0 (x : Emission) (s : State) : (emit x s).rxcT0 = s.rxcT0 := by
  cases x <;> rfl
@[simp] theorem emit_loopPhase (x : Emission) (s : State) : (emit x s).loopPhase = s.loopPhase := by
  cases x <;> rfl
@[simp] theorem emit_drSnap (x : Emission) (s : State) : (emit x s).drSnap = s.drSnap := by
  cases x <;> rfl
@[simp] theorem emit_drN (x : Emission) (s : State) : (emit x s).drN = s.drN := by
  cases x <;> rfl
@[simp] theorem emit_drI (x : Emission) (s : State) : (emit x s).drI = s.drI := by
  cases x <;> rfl
@[simp] theorem emit_drActive (x : Emission) (s : State) : (emit x s).drActive = s.drActive := by
  cases x <;> rfl
@[simp] theorem emit_rxBuf (x : Emission) (s : State) : (emit x s).rxBuf = s.rxBuf := by
  cases x <;> rfl
@[simp] theorem emit_txBufA (x : Emission) (s : State) : (emit x s).txBufA = s.txBufA := by
  cases x <;> rfl
@[simp] theorem emit_txBufB (x : Emission) (s : State) : (emit x s).txBufB = s.txBufB := by
  cases x <;> rfl
@[simp] theorem emit_scratch (x : Emission) (s : State) : (emit x s).scratch = s.scratch := by
  cases x <;> rfl
@[simp] theorem emit_rxcPbuf (x : Emission) (s : State) : (emit x s).rxcPbuf = s.rxcPbuf := by
  cases x <;> rfl
@[simp] theorem emit_now (x : Emission) (s : State) : (emit x s).now = s.now := by
  cases x <;> rfl
@[simp] theorem emit_wdtLast (x : Emission) (s : State) : (emit x s).wdtLast = s.wdtLast := by
  cases x <;> rfl
@[simp] theorem emit_hostIn (x : Emission) (s : State) : (emit x s).hostIn = s.hostIn := by
  cases x <;> rfl
@[simp] theorem emit_hostOut (x : Emission) (s : State) : (emit x s).hostOut = s.hostOut ++ x.hostBytes := by
  cases x <;> simp [emit, appendEntry, Emission.hostBytes]
@[simp] theorem emit_radio (x : Emission) (s : State) : (emit x s).radio = s.radio ++ x.requests := by
  cases x <;> simp [emit, appendEntry, Emission.requests]
@[simp] theorem emit_sampleWr (x : Emission) (s : State) : (emit x s).sampleWr = s.sampleWr ++ x.samples := by
  cases x <;> simp [emit, appendEntry, Emission.samples]
@[simp] theorem emit_wdtKick (x : Emission) (s : State) : (emit x s).wdtKick = s.wdtKick ++ x.kicks := by
  cases x <;> simp [emit, appendEntry, Emission.kicks]
@[simp] theorem emit_history (x : Emission) (s : State) : (emit x s).history = s.history ++ [⟨s.now, .emit x, .none⟩] := by
  cases x <;> rfl
@[simp] theorem emit_arrayEpoch (x : Emission) (s : State) : (emit x s).arrayEpoch = s.arrayEpoch := by
  cases x <;> rfl
@[simp] theorem emit_draws (x : Emission) (s : State) : (emit x s).draws = s.draws := by
  cases x <;> rfl
@[simp] theorem emit_script (x : Emission) (s : State) : (emit x s).script = s.script := by
  cases x <;> rfl

/-! ### setFillingLen -/

@[simp] theorem setFillingLen_cfg (n : Nat) (s : State) : (setFillingLen n s).cfg = s.cfg := by
  unfold setFillingLen; split <;> rfl
@[simp] theorem setFillingLen_mode (n : Nat) (s : State) : (setFillingLen n s).mode = s.mode := by
  unfold setFillingLen; split <;> rfl
@[simp] theorem setFillingLen_rxHead (n : Nat) (s : State) : (setFillingLen n s).rxHead = s.rxHead := by
  unfold setFillingLen; split <;> rfl
@[simp] theorem setFillingLen_rxTail (n : Nat) (s : State) : (setFillingLen n s).rxTail = s.rxTail := by
  unfold setFillingLen; split <;> rfl
@[simp] theorem setFillingLen_txFillA (n : Nat) (s : State) : (setFillingLen n s).txFillA = s.txFillA := by
  unfold setFillingLen; split <;> rfl
@[simp] theorem setFillingLen_txPlayStart (n : Nat) (s : State) : (setFillingLen n s).txPlayStart = s.txPlayStart := by
  unfold setFillingLen; split <;> rfl
@[simp] theorem setFillingLen_txPlayEnd (n : Nat) (s : State) : (setFillingLen n s).txPlayEnd = s.txPlayEnd := by
  unfold setFillingLen; split <;> rfl
@[simp] theorem setFillingLen_dlmCnt (n : Nat) (s : State) : (setFillingLen n s).dlmCnt = s.dlmCnt := by
  unfold setFillingLen; split <;> rfl
@[simp] theorem setFillingLen_guardValid (n : Nat) (s : State) : (setFillingLen n s).guardValid = s.guardValid := by
  unfold setFillingLen; split <;> rfl
@[simp] theorem setFillingLen_guardStart (n : Nat) (s : State) : (setFillingLen n s).guardStart = s.guardStart := by
  unfold setFillingLen; split <;> rfl
@[simp] theorem setFillingLen_txEn (n : Nat) (s : State) : (setFillingLen n s).txEn = s.txEn := by
  unfold setFillingLen; split <;> rfl
@[simp] theorem setFillingLen_dbgInd (n : Nat) (s : State) : (setFillingLen n s).dbgInd = s.dbgInd := by
  unfold setFillingLen; split <;> rfl
@[simp] theorem setFillingLen_sampleOut (n : Nat) (s : State) : (setFillingLen n s).sampleOut = s.sampleOut := by
  unfold setFillingLen; split <;> rfl
@[simp] theorem setFillingLen_tickPending (n : Nat) (s : State) : (setFillingLen n s).tickPending = s.tickPending := by
  unfold setFillingLen; split <;> rfl
@[simp] theorem setFillingLen_tmrNext (n : Nat) (s : State) : (setFillingLen n s).tmrNext = s.tmrNext := by
  unfold setFillingLen; split <;> rfl
@[simp] theorem setFillingLen_rxcState (n : Nat) (s : State) : (setFillingLen n s).rxcState = s.rxcState := by
  unfold setFillingLen; split <;> rfl
@[simp] theorem setFillingLen_rxcCnt (n : Nat) (s : State) : (setFillingLen n s).rxcCnt = s.rxcCnt := by
  unfold setFillingLen; split <;> rfl
@[simp] theorem setFillingLen_rxcSel (n : Nat) (s : State) : (setFillingLen n s).rxcSel = s.rxcSel := by
  unfold setFillingLen; split <;> rfl
@[simp] theorem setFillingLen_rxcT0 (n : Nat) (s : State) : (setFillingLen n s).rxcT0 = s.rxcT0 := by
  unfold setFillingLen; split <;> rfl
@[simp] theorem setFillingLen_loopPhase (n : Nat) (s : State) : (setFillingLen n s).loopPhase = s.loopPhase := by
  unfold setFillingLen; split <;> rfl
@[simp] theorem setFillingLen_drSnap (n : Nat) (s : State) : (setFillingLen n s).drSnap = s.drSnap := by
  unfold setFillingLen; split <;> rfl
@[simp] theorem setFillingLen_drN (n : Nat) (s : State) : (setFillingLen n s).drN = s.drN := by
  unfold setFillingLen; split <;> rfl
@[simp] theorem setFillingLen_drI (n : Nat) (s : State) : (setFillingLen n s).drI = s.drI := by
  unfold setFillingLen; split <;> rfl
@[simp] theorem setFillingLen_drActive (n : Nat) (s : State) : (setFillingLen n s).drActive = s.drActive := by
  unfold setFillingLen; split <;> rfl
@[simp] theorem setFillingLen_rxBuf (n : Nat) (s : State) : (setFillingLen n s).rxBuf = s.rxBuf := by
  unfold setFillingLen; split <;> rfl
@[simp] theorem setFillingLen_txBufA (n : Nat) (s : State) : (setFillingLen n s).txBufA = s.txBufA := by
  unfold setFillingLen; split <;> rfl
@[simp] theorem setFillingLen_txBufB (n : Nat) (s : State) : (setFillingLen n s).txBufB = s.txBufB := by
  unfold setFillingLen; split <;> rfl
@[simp] theorem setFillingLen_scratch (n : Nat) (s : State) : (setFillingLen n s).scratch = s.scratch := by
  unfold setFillingLen; split <;> rfl
@[simp] theorem setFillingLen_rxcPbuf (n : Nat) (s : State) : (setFillingLen n s).rxcPbuf = s.rxcPbuf := by
  unfold setFillingLen; split <;> rfl
@[simp] theorem setFillingLen_now (n : Nat) (s : State) : (setFillingLen n s).now = s.now := by
  unfold setFillingLen; split <;> rfl
@[simp] theorem setFillingLen_wdtLast (n : Nat) (s : State) : (setFillingLen n s).wdtLast = s.wdtLast := by
  unfold setFillingLen; split <;> rfl
@[simp] theorem setFillingLen_hostIn (n : Nat) (s : State) : (setFillingLen n s).hostIn = s.hostIn := by
  unfold setFillingLen; split <;> rfl
@[simp] theorem setFillingLen_hostOut (n : Nat) (s : State) : (setFillingLen n s).hostOut = s.hostOut := by
  unfold setFillingLen; split <;> rfl
@[simp] theorem setFillingLen_radio (n : Nat) (s : State) : (setFillingLen n s).radio = s.radio := by
  unfold setFillingLen; split <;> rfl
@[simp] theorem setFillingLen_sampleWr (n : Nat) (s : State) : (setFillingLen n s).sampleWr = s.sampleWr := by
  unfold setFillingLen; split <;> rfl
@[simp] theorem setFillingLen_wdtKick (n : Nat) (s : State) : (setFillingLen n s).wdtKick = s.wdtKick := by
  unfold setFillingLen; split <;> rfl
@[simp] theorem setFillingLen_history (n : Nat) (s : State) : (setFillingLen n s).history = s.history := by
  unfold setFillingLen; split <;> rfl
@[simp] theorem setFillingLen_arrayEpoch (n : Nat) (s : State) : (setFillingLen n s).arrayEpoch = s.arrayEpoch := by
  unfold setFillingLen; split <;> rfl
@[simp] theorem setFillingLen_draws (n : Nat) (s : State) : (setFillingLen n s).draws = s.draws := by
  unfold setFillingLen; split <;> rfl
@[simp] theorem setFillingLen_script (n : Nat) (s : State) : (setFillingLen n s).script = s.script := by
  unfold setFillingLen; split <;> rfl
@[simp] theorem setFillingLen_txLenA (n : Nat) (s : State) :
    (setFillingLen n s).txLenA = if s.txFillA then n else s.txLenA := by
  unfold setFillingLen; split <;> rfl
@[simp] theorem setFillingLen_txLenB (n : Nat) (s : State) :
    (setFillingLen n s).txLenB = if s.txFillA then s.txLenB else n := by
  unfold setFillingLen; split <;> rfl

end Sys2Proof.Machine
end

