-- ==== Sys2Proof/Laws/Ops.lean ====
section
/-! SUPPORT. What each shared operation does, said once: sequencing, the arrays, the slots of the state, the events. -/

namespace Sys2Proof.Machine

/-! ### Sequencing -/

@[simp] theorem andThen_next (s : State) (f : State → Result) : andThen (.next s) f = f s := rfl
@[simp] theorem andThen_fault (e : Fault) (f : State → Result) : andThen (.fault e) f = .fault e := rfl
@[simp] theorem andThen_refused (e : Refusal) (f : State → Result) : andThen (.refused e) f = .refused e := rfl

theorem andThen_eq_next {r : Result} {f : State → Result} {t : State} :
    andThen r f = .next t ↔ ∃ s, r = .next s ∧ f s = .next t := by
  cases r <;> simp

theorem andThen_eq_fault {r : Result} {f : State → Result} {e : Fault} :
    andThen r f = .fault e ↔ r = .fault e ∨ ∃ s, r = .next s ∧ f s = .fault e := by
  cases r <;> simp

/-! ### One array -/

theorem memRead_memWrite (m : Mem) (i j : Nat) (v : Byte) :
    memRead (memWrite m i v) j = if i = j then some v else memRead m j := by
  induction m with
  | nil => simp [memWrite, memRead]
  | cons c m ih =>
    obtain ⟨a, b⟩ := c
    simp only [memWrite]
    split
    · simp [memRead]
    · split
      · rename_i _ h; subst h
        by_cases h : i = j <;> simp [memRead, h]
      · simp only [memRead, ih]
        by_cases h1 : a = j <;> by_cases h2 : i = j <;> simp [h1, h2]
        omega

theorem memRising_memWrite {lo : Nat} {m : Mem} {i : Nat} (v : Byte) (hi : lo ≤ i) (h : memRising lo m = true) :
    memRising lo (memWrite m i v) = true := by
  induction m generalizing lo with
  | nil => simp [memWrite, memRising, hi]
  | cons c m ih =>
    obtain ⟨a, b⟩ := c
    simp only [memRising, Bool.and_eq_true, decide_eq_true_eq] at h
    simp only [memWrite]
    split
    · simp only [memRising, Bool.and_eq_true, decide_eq_true_eq]
      exact ⟨hi, by omega, h.2⟩
    · split
      · rename_i _ h1; subst h1
        simp [memRising, h.2, hi]
      · simp only [memRising, Bool.and_eq_true, decide_eq_true_eq]
        exact ⟨h.1, ih (by omega) h.2⟩

theorem memWrite_all {p : Host.Cell → Bool} {m : Mem} {i : Nat} {v : Byte} (hp : p (i, v) = true)
    (h : m.all p = true) : (memWrite m i v).all p = true := by
  induction m with
  | nil => simp [memWrite, hp]
  | cons c m ih =>
    obtain ⟨a, b⟩ := c
    simp only [List.all_cons, Bool.and_eq_true] at h
    simp only [memWrite]
    split
    · simp [hp, h.1, h.2]
    · split
      · simp [hp, h.2]
      · simp [h.1, ih h.2]

/-- Every write inside an array keeps its canonical form. -/
theorem memWf_memWrite {cap : Nat} {m : Mem} {i : Nat} (v : Byte) (hi : i < cap) (h : memWf cap m = true) :
    memWf cap (memWrite m i v) = true := by
  simp only [memWf, Bool.and_eq_true] at h ⊢
  exact ⟨memRising_memWrite v (Nat.zero_le i) h.1, memWrite_all (by simpa using hi) h.2⟩

@[simp] theorem memWf_nil (cap : Nat) : memWf cap [] = true := rfl

/-! ### The arrays of the state -/

@[simp] theorem getArray_setArray (a b : ArrayName) (m : Mem) (s : State) :
    getArray (setArray a m s) b = if a = b then m else getArray s b := by
  cases a <;> cases b <;> rfl

@[simp] theorem setArray_getArray (a : ArrayName) (s : State) : setArray a (getArray s a) s = s := by
  cases a <;> rfl

@[simp] theorem setArray_setArray (a : ArrayName) (m n : Mem) (s : State) :
    setArray a m (setArray a n s) = setArray a m s := by
  cases a <;> rfl

theorem slot_setArray (a b : ArrayName) (m : Mem) (s : State) (j : Nat) :
    slot (setArray a m s) b j =
      if a = b then (memRead m j).getD (Config.freeArrayByte b s.arrayEpoch j) else slot s b j := by
  simp only [slot, getArray_setArray, setArray_arrayEpoch]
  by_cases h : a = b <;> simp [h]

/-- A written slot holds the byte written; every other slot of every array holds what it held. -/
theorem slot_after_write (a b : ArrayName) (i j : Nat) (v : Byte) (s : State) :
    slot (setArray a (memWrite (getArray s a) i v) s) b j = if a = b ∧ i = j then v else slot s b j := by
  simp only [slot_setArray, memRead_memWrite]
  by_cases h : a = b
  · subst h
    by_cases hj : i = j <;> simp [hj, slot]
  · simp [h]

theorem readSlot_of_lt {s : State} {a : ArrayName} {i : Nat} (h : i < capacity s.cfg a) :
    readSlot s a i = some (slot s a i) := by simp [readSlot, h]

theorem writeSlot_of_lt {s : State} {a : ArrayName} {i : Nat} (v : Byte) (h : i < capacity s.cfg a) :
    writeSlot a i v s = .next (setArray a (memWrite (getArray s a) i v) s) := by simp [writeSlot, h]

theorem writeSlot_eq_next {s t : State} {a : ArrayName} {i : Nat} {v : Byte} :
    writeSlot a i v s = .next t ↔
      i < capacity s.cfg a ∧ t = setArray a (memWrite (getArray s a) i v) s := by
  unfold writeSlot
  split <;> simp_all [eq_comm]

/-- An out-of-range write faults (R55). -/
theorem writeSlot_of_ge {s : State} {a : ArrayName} {i : Nat} (v : Byte) (h : capacity s.cfg a ≤ i) :
    writeSlot a i v s = .fault (.arrayIndex a i) := by simp [writeSlot, Nat.not_lt.mpr h]

/-- Reads at rising indexes inside an array give its slots in order. -/
theorem readSlots_of_le {s : State} {a : ArrayName} {i n : Nat} (h : i + n ≤ capacity s.cfg a) :
    readSlots s a i n = some ((List.range n).map fun k => slot s a (i + k)) := by
  induction n generalizing i with
  | zero => rfl
  | succ n ih =>
    simp only [readSlots, readSlot_of_lt (show i < capacity s.cfg a by omega), ih (show i + 1 + n ≤ _ by omega)]
    simp [List.range_succ_eq_map, Function.comp_def, Nat.add_assoc, Nat.add_comm 1]

theorem readSlots_length {s : State} {a : ArrayName} {i n : Nat} {bs : List Byte}
    (h : readSlots s a i n = some bs) : bs.length = n := by
  induction n generalizing i bs with
  | zero => simp_all [readSlots]
  | succ n ih =>
    simp only [readSlots] at h
    split at h <;> simp_all
    rename_i b bs' h1 h2
    subst h; simp [ih h2]

/-- The writes of `writeSlots` on one array. -/
def memWriteRun : Mem → Nat → List Byte → Mem
  | m, _, [] => m
  | m, i, b :: bs => memWriteRun (memWrite m i b) (i + 1) bs

theorem memRead_memWriteRun (m : Mem) (i j : Nat) (bs : List Byte) :
    memRead (memWriteRun m i bs) j = if i ≤ j ∧ j < i + bs.length then bs[j - i]? else memRead m j := by
  induction bs generalizing m i with
  | nil => simp [memWriteRun]
  | cons b bs ih =>
    simp only [memWriteRun, ih, memRead_memWrite, List.length_cons]
    rcases Nat.lt_trichotomy j i with h | h | h
    · rw [if_neg (by omega), if_neg (by omega), if_neg (by omega)]
    · subst h; rw [if_neg (by omega), if_pos rfl, if_pos (by omega)]; simp
    · obtain ⟨k, rfl⟩ : ∃ k, j = i + 1 + k := ⟨j - i - 1, by omega⟩
      rw [if_neg (show ¬ i = i + 1 + k by omega)]
      have e1 : i + 1 + k - (i + 1) = k := by omega
      have e2 : i + 1 + k - i = k + 1 := by omega
      rw [e1, e2, List.getElem?_cons_succ]
      by_cases hk : k < bs.length
      · rw [if_pos (by omega), if_pos (by omega)]
      · rw [if_neg (by omega), if_neg (by omega)]

theorem memWf_memWriteRun {cap : Nat} {m : Mem} {i : Nat} {bs : List Byte} (hi : i + bs.length ≤ cap)
    (h : memWf cap m = true) : memWf cap (memWriteRun m i bs) = true := by
  induction bs generalizing m i with
  | nil => exact h
  | cons b bs ih =>
    simp only [List.length_cons] at hi
    exact ih (by omega) (memWf_memWrite b (by omega) h)

/-- Writes at rising indexes inside an array succeed and change that array alone. -/
theorem writeSlots_of_le {s : State} {a : ArrayName} {i : Nat} {bs : List Byte}
    (h : i + bs.length ≤ capacity s.cfg a) :
    writeSlots a i bs s = .next (setArray a (memWriteRun (getArray s a) i bs) s) := by
  induction bs generalizing s i with
  | nil => simp [writeSlots, memWriteRun]
  | cons b bs ih =>
    simp only [List.length_cons] at h
    rw [writeSlots, writeSlot_of_lt b (by omega), andThen_next, ih (by simpa using (by omega))]
    simp [memWriteRun]

/-- If the writes succeed, they changed that one array, at those indexes, and kept its form. -/
theorem writeSlots_eq_next {s t : State} {a : ArrayName} {i : Nat} {bs : List Byte}
    (h : writeSlots a i bs s = .next t) : t = setArray a (memWriteRun (getArray s a) i bs) s := by
  induction bs generalizing s i with
  | nil => simp_all [writeSlots, memWriteRun]
  | cons b bs ih =>
    rw [writeSlots, andThen_eq_next] at h
    obtain ⟨u, hu, ht⟩ := h
    obtain ⟨-, rfl⟩ := writeSlot_eq_next.mp hu
    have := ih ht
    simpa [memWriteRun] using this

theorem slot_after_writes (a b : ArrayName) (i j : Nat) (bs : List Byte) (s : State) :
    slot (setArray a (memWriteRun (getArray s a) i bs) s) b j =
      if a = b ∧ i ≤ j ∧ j < i + bs.length then bs.getD (j - i) 0 else slot s b j := by
  simp only [slot_setArray, memRead_memWriteRun]
  by_cases h : a = b
  · subst h
    by_cases hj : i ≤ j ∧ j < i + bs.length
    · rw [if_pos rfl, if_pos hj, if_pos ⟨rfl, hj⟩, List.getElem?_eq_getElem (by omega)]
      simp [List.getD_eq_getElem?_getD, List.getElem?_eq_getElem (show j - i < bs.length by omega)]
    · rw [if_pos rfl, if_neg hj, if_neg (by tauto)]; rfl
  · simp [h]

/-! ### Arrays of unchanged content -/

/-- A slot depends on nothing but its array and the reset that last redrew the arrays. -/
theorem slot_congr {s t : State} {a : ArrayName} (h : getArray t a = getArray s a)
    (he : t.arrayEpoch = s.arrayEpoch) (i : Nat) : slot t a i = slot s a i := by
  simp [slot, h, he]

/-! ### Events -/

@[simp] theorem errorEvents_recordOp (o : OpName) (info : Info) (s : State) :
    errorEvents (recordOp o info s) = errorEvents s := by
  simp [errorEvents, Entry.isEvent]

@[simp] theorem errorEvents_raiseEvent (e : EventCode) (info : Info) (s : State) :
    errorEvents (raiseEvent e info s) = errorEvents s ++ [⟨s.now, .event e, info⟩] := by
  simp [errorEvents, Entry.isEvent]

@[simp] theorem errorEvents_emit (x : Emission) (s : State) : errorEvents (emit x s) = errorEvents s := by
  simp [errorEvents, Entry.isEvent]

/-- The events depend on the history alone. -/
theorem errorEvents_congr {s t : State} (h : t.history = s.history) : errorEvents t = errorEvents s := by
  simp [errorEvents, h]

/-! ### Emissions -/

@[simp] theorem emissions_append (h k : List Entry) : emissions (h ++ k) = emissions h ++ emissions k := by
  simp [emissions]

/-- Each stream gains exactly what the entries of the history say was handed to it (R44). -/
theorem emit_records (x : Emission) (s : State) :
    emissions (emit x s).history = emissions s.history ++ [x] := by
  simp [emissions]

/-- But for the history, an emission grows its own stream and changes nothing else. -/
@[simp] theorem unlogged_emit (x : Emission) (s : State) :
    unlogged (emit x s) = unlogged
      { s with
        hostOut := s.hostOut ++ x.hostBytes
        radio := s.radio ++ x.requests
        sampleWr := s.sampleWr ++ x.samples
        wdtKick := s.wdtKick ++ x.kicks } := by
  cases x <;> simp [emit, unlogged, appendEntry, Emission.hostBytes, Emission.requests, Emission.samples, Emission.kicks]

/-! ### HostLink -/

/-- The host's bytes arrive in order, each with its history entry, and change nothing else (R41). -/
theorem hostAppendAll_eq (bs : List Byte) (s : State) :
    hostAppendAll bs s =
      { s with
        hostIn := s.hostIn ++ bs
        history := s.history ++ bs.map fun b => ⟨s.now, .op .envHostByte, .byte b⟩ } := by
  induction bs generalizing s with
  | nil => simp [hostAppendAll]
  | cons b bs ih =>
    rw [show hostAppendAll (b :: bs) s = hostAppendAll bs (hostAppend b s) from rfl, ih]
    simp [hostAppend, recordOp, appendEntry]

/-! ### Cursors -/

/-- `subMod` is the mathematical remainder of the difference (00_scope.md section 4). -/
theorem subMod_eq_emod {a b n : Nat} (hn : 0 < n) : (subMod a b n : Int) = ((a : Int) - b) % n := by
  have hb : b % n < n := Nat.mod_lt b hn
  simp only [subMod, Int.natCast_emod, Int.natCast_add, Int.natCast_sub (Nat.le_of_lt hb)]
  have : ((a : Int) + (n - ((b : Int) % n))) = ((a : Int) - b) + n * (1 + (b : Int) / n) := by
    have := Int.emod_add_mul_ediv (b : Int) n
    linarith
  rw [this, Int.add_mul_emod_self_left]

theorem subMod_lt {a b n : Nat} (hn : 0 < n) : subMod a b n < n := Nat.mod_lt _ hn

/-! ### Derived rates (R204) -/

/-- The swap test is at the shorter end of the playing buffer's range. -/
theorem swapDue_eq (s : State) : swapDue s = decide ((playingBufferRange s.cfg).1 ≤ fillingLen s) := rfl

/-- The playback index advances by the index step inside a window of the length TX.SWAP gives. -/
theorem playIndex_eq_indexStep {p : Config.Params} {t start stop : Time} {len : Nat}
    (h : stop.toNat - start.toNat = playDuration p len) :
    playIndex t start stop len = (t.toNat - start.toNat) * (indexStep p len).1 / (indexStep p len).2 := by
  simp only [playIndex, indexStep, h]

end Sys2Proof.Machine
end

