-- ==== Sys2Proof/Laws/Meanings.lean ====
section
/-! SUPPORT. What each path of the meanings answers, said once, under the condition that keeps its indexes inside the
arrays. -/

namespace Sys2Proof.Machine

/-! ### Sampler -/

theorem playingBuffer_capacity (s : State) : capacity s.cfg (playingBuffer s) = s.cfg.cTx := by
  unfold playingBuffer; split <;> rfl

theorem fillingBuffer_capacity (s : State) : capacity s.cfg (fillingBuffer s) = s.cfg.cTx := by
  unfold fillingBuffer; split <;> rfl

theorem fillingBuffer_ne_playingBuffer (s : State) : fillingBuffer s ≠ playingBuffer s := by
  unfold fillingBuffer playingBuffer; split <;> simp

/-- TICK.RX with a sample (R94). -/
theorem tickRxPath_value {s : State} (v : Byte) (h : s.rxTail < s.cfg.cRx) :
    tickRxPath (.value v) s = .next
      { recordOp .tickRx .none s with
        rxBuf := memWrite s.rxBuf s.rxTail v, rxTail := (s.rxTail + 1) % s.cfg.cRx } := by
  simp only [tickRxPath]
  rw [writeSlot_of_lt v (by simpa [capacity] using h)]
  rfl

/-- TICK.RX outside RXBUF, which no run reaches (R48, R55). -/
theorem tickRxPath_value_ge {s : State} (v : Byte) (h : s.cfg.cRx ≤ s.rxTail) :
    tickRxPath (.value v) s = .fault (.arrayIndex .rxBuf s.rxTail) := by
  simp only [tickRxPath]
  rw [writeSlot_of_ge v (by simpa [capacity] using h)]
  rfl

/-- TICK.RX with a FAULT (R95). -/
theorem tickRxPath_fault (s : State) :
    tickRxPath .fault s = .next (raiseEvent .sampleFault (.count s.rxTail) (recordOp .tickRx .none s)) := rfl

/-- The window condition, spelled out (R98). -/
theorem windowOpen_iff {s : State} :
    windowOpen s = true ↔ 1 ≤ playingLen s ∧ s.txPlayStart ≤ s.now ∧ s.now < s.txPlayEnd := by
  simp [windowOpen, and_assoc]

/-- Inside the window the index stays inside the filled range (R99). -/
theorem tickIndex_le {s : State} (h : windowOpen s = true) : tickIndex s ≤ playingLen s - 1 := by
  obtain ⟨-, h1, h2⟩ := windowOpen_iff.mp h
  rw [BitVec.le_def] at h1
  rw [BitVec.lt_def] at h2
  unfold tickIndex playIndex
  apply Nat.div_le_of_le_mul
  exact Nat.mul_le_mul_right _ (by omega)

/-- TICK.TX reads the slot before any of its entries is made. -/
theorem tickTxPath_unfold (s : State) :
    tickTxPath s =
      if windowOpen s then
        match readSlot s (playingBuffer s) (tickIndex s) with
        | some v => .next (emit (.sampleWr s.now v) { recordOp .tickTx .none s with sampleOut := v })
        | none => .fault (.arrayIndex (playingBuffer s) (tickIndex s))
      else .next (recordOp .tickTx .none s) := rfl

/-- TICK.TX (R96): a byte inside the window, nothing outside. -/
theorem tickTxPath_of_le {s : State} (h : playingLen s ≤ s.cfg.cTx) :
    tickTxPath s = .next
      (if windowOpen s then
        emit (.sampleWr s.now (slot s (playingBuffer s) (tickIndex s)))
          { recordOp .tickTx .none s with sampleOut := slot s (playingBuffer s) (tickIndex s) }
      else recordOp .tickTx .none s) := by
  rw [tickTxPath_unfold]
  by_cases hw : windowOpen s = true
  · have hi := tickIndex_le hw
    have hp := (windowOpen_iff.mp hw).1
    rw [if_pos hw, if_pos hw, readSlot_of_lt (by rw [playingBuffer_capacity]; omega)]
  · rw [if_neg hw, if_neg hw]

/-! ### The drain -/

/-- One copy step inside the arrays (R106). -/
theorem drainCopy_of_lt {s : State} (h : s.drI + 1 < s.cfg.cRx) :
    drainCopy s = .next
      { recordOp .rxDrain .none s with
        scratch := memWrite s.scratch s.drI (slot s .rxBuf (drainSlot s)), drI := s.drI + 1 } := by
  have hr : readSlot (recordOp .rxDrain .none s) .rxBuf (drainSlot (recordOp .rxDrain .none s)) =
      some (slot s .rxBuf (drainSlot s)) :=
    readSlot_of_lt (Nat.mod_lt _ (by simp; omega))
  simp only [drainCopy, hr]
  rw [writeSlot_of_lt _ (by simp [capacity]; omega)]
  rfl

/-- The gating inside the scratch array (R109). -/
theorem squelchGate_of_lt {s : State} (q : Bool) (h : s.drN < s.cfg.cRx) :
    squelchGate q s = .next
      (if q then setArray .scratch (memWriteRun s.scratch 0 (List.replicate s.drN s.cfg.silence)) s else s) := by
  unfold squelchGate
  cases q
  · rfl
  · simp only [if_true]
    rw [writeSlots_of_le (by simp [capacity]; omega)]
    rfl

/-- The send inside the scratch array (R110). -/
theorem drainSend_of_lt {s : State} (h : s.drN < s.cfg.cRx) :
    drainSend s = .next
      { emit (.hostOut ((List.range s.drN).map (slot s .scratch))) s with drActive := false, loopPhase := .iterStart } := by
  unfold drainSend
  rw [readSlots_of_le (by simp [capacity]; omega)]
  simp only [Nat.zero_add]

/-- The commit step inside the arrays (R108 to R110). -/
theorem drainCommit_of_lt {s : State} (q : Bool) (h : s.drN < s.cfg.cRx) :
    drainCommit q s =
      drainSend
        (if q then
          setArray .scratch (memWriteRun s.scratch 0 (List.replicate s.drN s.cfg.silence))
            { recordOp .rxDrain .none s with rxHead := s.drSnap }
        else { recordOp .rxDrain .none s with rxHead := s.drSnap }) := by
  simp only [drainCommit]
  rw [squelchGate_of_lt q (by simpa using h), andThen_next]
  rfl

/-! ### Ingestion -/

theorem ingest_kept_le {s : State} {n : Nat} (h : fillingLen s ≤ s.cfg.cTx) :
    fillingLen s + min n (s.cfg.cTx - fillingLen s) ≤ s.cfg.cTx := by omega

/-- TX.INGEST inside the filling buffer (R116). -/
theorem ingest_of_le {s : State} (p : List Byte) (h : fillingLen s ≤ s.cfg.cTx) :
    ingest p s = .next
      (ingestDone (fillingLen s) (min p.length (s.cfg.cTx - fillingLen s))
        (p.length - min p.length (s.cfg.cTx - fillingLen s))
        (setArray (fillingBuffer s)
          (memWriteRun (getArray s (fillingBuffer s)) (fillingLen s)
            (p.take (min p.length (s.cfg.cTx - fillingLen s))))
          (recordOp .txIngest (.count p.length) s))) := by
  have e : ingest p s =
      andThen
        (writeSlots (fillingBuffer s) (fillingLen s) (p.take (min p.length (s.cfg.cTx - fillingLen s)))
          (recordOp .txIngest (.count p.length) s))
        fun t => .next
          (ingestDone (fillingLen s) (min p.length (s.cfg.cTx - fillingLen s))
            (p.length - min p.length (s.cfg.cTx - fillingLen s)) t) := rfl
  have hc : capacity (recordOp .txIngest (.count p.length) s).cfg (fillingBuffer s) = s.cfg.cTx :=
    fillingBuffer_capacity s
  rw [e, writeSlots_of_le (by rw [hc, List.length_take]; omega)]
  cases hb : fillingBuffer s <;> simp [getArray]

/-! ### Commands -/

/-- CMD.TUNE_TO never stops: its reads stay inside RXC_PBUF (R136). -/
theorem tuneTo_eq (s : State) :
    tuneTo s = .next
      (emit
        (.radio
          (.tune ((List.range 7).map fun k => slot s .rxcPbuf (0 + k)) ((List.range 7).map fun k => slot s .rxcPbuf (7 + k))
            ((List.range 2).map fun k => slot s .rxcPbuf (14 + k)) (slot s .rxcPbuf 16)))
        (enterRx (recordOp .cmdTuneTo .none s))) := by
  simp only [tuneTo]
  rw [readSlots_of_le (by simp [capacity]), readSlots_of_le (by simp [capacity]),
    readSlots_of_le (by simp [capacity]), readSlot_of_lt (by simp [capacity])]
  rfl

/-- CMD.FILTERS never stops (R138). -/
theorem setFilters_eq (s : State) :
    setFilters s = .next
      (emit
        (.radio
          (.filters (filterFlag (slot s .rxcPbuf 0)) (filterFlag (slot s .rxcPbuf 1)) (filterFlag (slot s .rxcPbuf 2))
            [slot s .rxcPbuf 0, slot s .rxcPbuf 1, slot s .rxcPbuf 2]))
        (recordOp .cmdFilters .none s)) := by
  simp only [setFilters]
  rw [readSlot_of_lt (by simp [capacity]), readSlot_of_lt (by simp [capacity]), readSlot_of_lt (by simp [capacity])]
  rfl

/-- At most 17 parameter bytes fit RXC_PBUF (R50, R52). -/
theorem storeParams_of_le {s : State} {bs : List Byte} (h : bs.length ≤ 17) :
    storeParams bs s = .next (setArray .rxcPbuf (memWriteRun s.rxcPbuf 0 bs) s) :=
  writeSlots_of_le (by simpa [capacity] using h)

/-- The number of parameter bytes fits RXC_PBUF (R131). -/
theorem paramsWanted_le (s : State) : paramsWanted s ≤ 17 := by
  unfold paramsWanted; split <;> omega

/-- The parameter step with its bytes available (R131). -/
theorem paramStep_available {s : State} (h : paramsAvailable s = true) :
    paramStep s =
      andThen
        (runParamCommand
          (setArray .rxcPbuf (memWriteRun s.rxcPbuf 0 (s.hostIn.take (paramsWanted s)))
            (hostDrop (paramsWanted s) (recordOp .rxCmd .none s))))
        fun t => .next (completeCommand t) := by
  unfold paramStep
  rw [if_pos h]
  have := paramsWanted_le s
  simp only [storeParams_of_le (show (s.hostIn.take (paramsWanted s)).length ≤ 17 by simp; omega), andThen_next]
  rfl

/-! ### The scan -/

/-- The model's classification is the loop of R143's pseudocode. -/
theorem scanLoop_eq (c : Nat) (bs p ig : List Byte) :
    scanLoop bs c p ig =
      ⟨(scanBytes c bs).dlmCnt, p ++ (scanBytes c bs).payload, ig ++ (scanBytes c bs).ignored, (scanBytes c bs).pttUp⟩ := by
  induction bs generalizing c p ig with
  | nil => simp [scanLoop, scanBytes]
  | cons b bs ih =>
    simp only [scanLoop, scanBytes, matchDelim, pttUpSelector, ih]
    split
    · split
      next hb => simp [show b = 2#8 from hb]
      next hb => simp [show ¬b = 2#8 from hb]
    · simp

/-- The ignored selectors leave their history entries, in order, and nothing else (R146). -/
theorem ignored_foldl (ig : List Byte) (s : State) :
    ig.foldl (fun s b => ignoreInTransmit b s) s =
      { s with history := s.history ++ ig.map fun b => ⟨s.now, .op .cmdTxIgnore, .byte b⟩ } := by
  induction ig generalizing s with
  | nil => simp
  | cons b ig ih => rw [List.foldl_cons, ih]; simp [ignoreInTransmit, recordOp, appendEntry]

/-- The count never passes 8 (R29). -/
theorem scanBytes_dlmCnt_le {c : Nat} (h : c ≤ 8) (bs : List Byte) : (scanBytes c bs).dlmCnt ≤ 8 := by
  induction bs generalizing c with
  | nil => simpa [scanBytes]
  | cons b bs ih =>
    simp only [scanBytes]
    split
    · split
      · simp
      · exact ih (by omega)
    · refine ih ?_
      unfold matchDelim
      split <;> omega

/-! ### The drain's head write -/

/-- The head write as a step apart changes nothing that the commit does but the history, which has its entry (R60, R108; log
entry 23). -/
theorem drainCommit_headWrite (q : Bool) (s : State) :
    drainCommit q (headWrite s) = drainCommit q (recordOp .rxDrain .none s) := rfl

/-- TICK.RX reads no RX_HEAD. -/
theorem tickRxPath_rxHead (d : SampleRead) (n : Nat) (s : State) :
    tickRxPath d { s with rxHead := n } = andThen (tickRxPath d s) fun t => .next { t with rxHead := n } := by
  cases d with
  | fault => rfl
  | value v =>
    by_cases h : s.rxTail < s.cfg.cRx
    · rw [tickRxPath_value v h, tickRxPath_value v (s := { s with rxHead := n }) h]; rfl
    · have h := Nat.not_lt.mp h
      rw [tickRxPath_value_ge v h, tickRxPath_value_ge v (s := { s with rxHead := n }) h]; rfl

/-- TICK.TX reads no RX_HEAD. -/
theorem tickTxPath_rxHead (n : Nat) (s : State) :
    tickTxPath { s with rxHead := n } = andThen (tickTxPath s) fun t => .next { t with rxHead := n } := by
  rw [tickTxPath_unfold, tickTxPath_unfold]
  change (if windowOpen s then
      match readSlot s (playingBuffer s) (tickIndex s) with
      | some v => Host.Outcome.next
        (emit (.sampleWr s.now v) { recordOp .tickTx .none { s with rxHead := n } with sampleOut := v })
      | none => Host.Outcome.fault (Fault.arrayIndex (playingBuffer s) (tickIndex s))
    else .next (recordOp .tickTx .none { s with rxHead := n })) = _
  cases windowOpen s
  · rfl
  · cases readSlot s (playingBuffer s) (tickIndex s) <;> rfl

/-- A TICK between the head write and the send does what it does before both, for agent S reads no register that the head write
changes (R64). -/
theorem execTick_rxHead (d : SampleRead) (n : Nat) (s : State) :
    execTick d { s with rxHead := n } = andThen (execTick d s) fun t => .next { t with rxHead := n } := by
  have path : ∀ (m : Mode) (u : State),
      (match m with
        | .receive => tickRxPath d { u with rxHead := n }
        | .transmit => tickTxPath { u with rxHead := n }) =
      andThen (match m with | .receive => tickRxPath d u | .transmit => tickTxPath u)
        fun t => .next { t with rxHead := n } := fun m u => by
    cases m
    · exact tickRxPath_rxHead d n u
    · exact tickTxPath_rxHead n u
  unfold execTick
  by_cases h : s.tickPending = true
  · rw [if_pos h, if_pos h]
    exact path s.mode { recordOp .tick .none s with tickPending := false }
  · rw [if_neg h, if_neg h]; rfl

end Sys2Proof.Machine
end

