-- ==== Sys2Proof/Laws/PerInstr.lean ====
section
/-! SUPPORT. Families of statements about every instruction as syntax, one lemma per constructor. `OpcodeRow`: the encoding of
a well-formed instruction carries the fixed bits of its row of spec/opcode_table.json. -/

namespace Sys2Proof.Laws.OpcodeRow

/-- A row's mask and match, byte by byte in transmission order (R88). -/
structure Row where
  mask : List Byte
  value : List Byte
  deriving DecidableEq, Repr

/-- The first bytes, masked, are the row's value. -/
def Row.fits (r : Row) (bytes : List Byte) : Prop :=
  List.zipWith (· &&& ·) (bytes.take r.mask.length) r.mask = r.value

/-- An OPID row. -/
def opid (id : Byte) : Row := ⟨[0xFF], [id]⟩

/-- A FRAME9 row of the Receive dialect: only byte 8 counts (R71). -/
def receive (sel : Byte) : Row := ⟨[0, 0, 0, 0, 0, 0, 0, 0, 0xFF], [0, 0, 0, 0, 0, 0, 0, 0, sel]⟩

/-- The mask and match of each instruction's row, written from spec/opcode_table.json. -/
def row : Instr → Row
  | .timerStrobe => opid 0x01
  | .tick _ => opid 0x10
  | .tickRx _ => opid 0x11
  | .tickTx => opid 0x12
  | .rxDrain _ => opid 0x20
  | .rxCmd => opid 0x30
  | .cmdPttDown => opid 0x31
  | .cmdTuneTo => opid 0x32
  | .cmdFilters => opid 0x33
  | .cmdIgnore => opid 0x34
  | .cmdAbandon => opid 0x35
  | .txScan => opid 0x40
  | .txIngest _ => opid 0x41
  | .txSwap => opid 0x42
  | .cmdPttUp => opid 0x43
  | .cmdTxIgnore _ => opid 0x44
  | .modeEnterTx => opid 0x50
  | .modeEnterRx => opid 0x51
  | .guardCheck => opid 0x52
  | .wdtKick => opid 0x60
  | .loopIter _ => opid 0x61
  | .reset _ => opid 0x70
  | .envTime _ => opid 0xE0
  | .envHostByte _ => opid 0xE1
  | .envWdtExpire _ => opid 0xE2
  | .framePttDown _ => receive 0x01
  | .frameTuneTo _ _ => receive 0x03
  | .frameFilters _ _ => receive 0x04
  | .frameIgnore _ _ => ⟨[0, 0, 0, 0, 0, 0, 0, 0, 0], [0, 0, 0, 0, 0, 0, 0, 0, 0]⟩
  | .framePttUp =>
    ⟨[0xFF, 0xFF, 0xFF, 0xFF, 0xFF, 0xFF, 0xFF, 0xFF, 0xFF], [0xFF, 0, 0xFF, 0, 0xFF, 0, 0xFF, 0, 2]⟩
  | .frameTxIgnore _ =>
    ⟨[0xFF, 0xFF, 0xFF, 0xFF, 0xFF, 0xFF, 0xFF, 0xFF, 0], [0xFF, 0, 0xFF, 0, 0xFF, 0, 0xFF, 0, 0]⟩

/-- The encoding of a well-formed instruction carries its row's fixed bits. -/
def Statement (i : Instr) : Prop := i.wellFormed = true → (row i).fits (encode i).bytes

theorem timerStrobe : Statement .timerStrobe := fun _ => rfl
theorem tick (d : SampleRead) : Statement (.tick d) := fun _ => rfl
theorem tickRx (d : SampleRead) : Statement (.tickRx d) := fun _ => rfl
theorem tickTx : Statement .tickTx := fun _ => rfl
theorem rxDrain (q : DrainDraw) : Statement (.rxDrain q) := fun _ => rfl
theorem rxCmd : Statement .rxCmd := fun _ => rfl
theorem cmdPttDown : Statement .cmdPttDown := fun _ => rfl
theorem cmdTuneTo : Statement .cmdTuneTo := fun _ => rfl
theorem cmdFilters : Statement .cmdFilters := fun _ => rfl
theorem cmdIgnore : Statement .cmdIgnore := fun _ => rfl
theorem cmdAbandon : Statement .cmdAbandon := fun _ => rfl
theorem txScan : Statement .txScan := fun _ => rfl
theorem txIngest (p : List Byte) : Statement (.txIngest p) := fun _ => rfl
theorem txSwap : Statement .txSwap := fun _ => rfl
theorem cmdPttUp : Statement .cmdPttUp := fun _ => rfl
theorem cmdTxIgnore (b : Byte) : Statement (.cmdTxIgnore b) := fun _ => rfl
theorem modeEnterTx : Statement .modeEnterTx := fun _ => rfl
theorem modeEnterRx : Statement .modeEnterRx := fun _ => rfl
theorem guardCheck : Statement .guardCheck := fun _ => rfl
theorem wdtKick : Statement .wdtKick := fun _ => rfl
theorem loopIter (q : DrainDraw) : Statement (.loopIter q) := fun _ => rfl
theorem reset (d : ResetDraw) : Statement (.reset d) := fun _ => rfl
theorem envTime (d : Time) : Statement (.envTime d) := fun _ => rfl
theorem envHostByte (b : Byte) : Statement (.envHostByte b) := fun _ => rfl
theorem envWdtExpire (d : ResetDraw) : Statement (.envWdtExpire d) := fun _ => rfl

theorem framePttDown (pre : BitVec 64) : Statement (.framePttDown pre) := fun _ => by
  simp [Row.fits, row, receive, encode, rxFrameRequest, bytesOf64]

theorem frameTuneTo (pre : BitVec 64) (p : TuneParams) : Statement (.frameTuneTo pre p) := fun _ => by
  simp [Row.fits, row, receive, encode, rxFrameRequest, bytesOf64]

theorem frameFilters (pre : BitVec 64) (p : FilterParams) : Statement (.frameFilters pre p) := fun _ => by
  simp [Row.fits, row, receive, encode, rxFrameRequest, bytesOf64]

theorem frameIgnore (pre : BitVec 64) (sel : Byte) : Statement (.frameIgnore pre sel) := fun _ => by
  simp [Row.fits, row, encode, rxFrameRequest, bytesOf64]

theorem framePttUp : Statement .framePttUp := fun _ => rfl

theorem frameTxIgnore (sel : Byte) : Statement (.frameTxIgnore sel) := fun _ => by
  simp [Row.fits, row, encode, txFrameRequest, Config.delim]

end Sys2Proof.Laws.OpcodeRow
end

