-- ==== Sys2Proof/Laws/Step.lean ====
section
/-! SUPPORT. What one step can be, said once: which instruction it runs and on which state. -/

namespace Sys2Proof.Machine

/-- The state a step runs its instruction on differs from the state it starts in by the draw counter or by the script's
first line, and by nothing else. -/
inductive StepsFrom (s : State) : State → Prop where
  | same : StepsFrom s s
  | drawn : StepsFrom s (nextDraw s)
  | popped : StepsFrom s (popScript s)

/-- The watchdog's step runs on such a state. -/
theorem chooseExpiry_from (s : State) : StepsFrom s (chooseExpiry s).2 := by
  unfold chooseExpiry
  split
  · exact .popped
  · exact .drawn

/-- The timer's step runs on such a state. -/
theorem chooseStrobe_from (s : State) : StepsFrom s (chooseStrobe s).2 := by
  unfold chooseStrobe
  split
  · exact .popped
  · exact .same

/-- The next operation runs on such a state. -/
theorem nextInstr_from {s u : State} {i : Instr} (h : nextInstr s = .ok (i, u)) : StepsFrom s u := by
  unfold nextInstr at h
  split at h
  · have e := Except.ok.inj h
    simpa [e] using chooseExpiry_from s
  · split at h
    · have e := Except.ok.inj h
      simpa [e] using chooseStrobe_from s
    · split at h
      · cases h; exact .popped
      · cases h
      · cases h; exact .drawn

/-- Any step is one `exec` on such a state. -/
theorem step_cases {s t : State} (h : step s = .next t) : ∃ i u, StepsFrom s u ∧ exec i u = .next t := by
  unfold step at h
  split at h
  next i u e => exact ⟨i, u, nextInstr_from e, h⟩
  next => cases h

/-- The watchdog's step goes first (R182). -/
theorem step_watchdog {s : State} (hw : watchdogDue s = true) (hs : s.script = []) :
    step s = exec (.envWdtExpire (Config.freeReset s.draws)) (nextDraw s) := by
  simp [step, nextInstr, hw, chooseExpiry, scriptHead, hs]

/-- The timer's step goes next (R182). -/
theorem step_strobe {s : State} (hw : watchdogDue s = false) (ht : strobeDue s = true) (hs : s.script = []) :
    step s = exec .timerStrobe s := by
  simp [step, nextInstr, hw, ht, chooseStrobe, scriptHead, hs]

/-- Then the script's line (R83). -/
theorem step_script {s : State} {r : Request} {rest : List Request} {i : Instr} (hw : watchdogDue s = false)
    (ht : strobeDue s = false) (hs : s.script = r :: rest) (hr : decode r = .ok i) :
    step s = exec i (popScript s) := by
  simp [step, nextInstr, hw, ht, scriptHead, hs, hr]

/-- With nothing scripted, the free choice (R62). -/
theorem step_free {s : State} (hw : watchdogDue s = false) (ht : strobeDue s = false) (hs : s.script = []) :
    step s = exec (freeStep s) (nextDraw s) := by
  simp [step, nextInstr, hw, ht, scriptHead, hs]

/-- The free choice is one of the enabled steps (R62). -/
theorem freeStep_mem (s : State) : freeStep s ∈ freeSteps s := by
  have h : 0 < (freeSteps s).length := by simp [freeSteps]
  unfold freeStep
  rw [List.getD_eq_getElem _ _ (Nat.mod_lt _ h)]
  exact List.getElem_mem _

end Sys2Proof.Machine
end

