-- ==== Sys2Proof/Machine/Scenario.lean ====
section
/-! DEFINITION. The scenario notation of 30_encoding.md R83 to R85: what each line runs, on a state with nothing scripted. A line
is a sequence of the machine's own operations, or an assertion; an operand that the table shows in brackets may be left
out, and is then a draw. Log entry 21. -/

namespace Sys2Proof.Machine

/-- A frame mnemonic or audio run of R84. -/
inductive HostText where
  | raw (bs : List Byte)
  | delim
  | pttDown
  | pttUp
  | tuneTo (p : TuneParams)
  | filters (p : FilterParams)
  | audio (k : Nat) (v : Byte)
  deriving DecidableEq, Repr

/-- The wire bytes a mnemonic is shorthand for (R84, R85). -/
def HostText.bytes : HostText → List Byte
  | .raw bs => bs
  | .delim => Config.delim
  | .pttDown => Config.delim ++ [1]
  | .pttUp => Config.delim ++ [pttUpSelector]
  | .tuneTo p => Config.delim ++ 3 :: p.bytes
  | .filters p => Config.delim ++ 4 :: p.bytes
  | .audio k v => List.replicate k v

/-- "Each string must have exactly the width shown" (R84). -/
def HostText.wellFormed : HostText → Bool
  | .tuneTo p => p.wellFormed
  | .raw _ | .delim | .pttDown | .pttUp | .filters _ | .audio _ _ => true

/-- What an `expect` line asserts of one register or stream (R83). -/
inductive Observation where
  | mode (v : Mode)
  | rxHead (v : Nat)
  | rxTail (v : Nat)
  | txFillA (v : Bool)
  | txLenA (v : Nat)
  | txLenB (v : Nat)
  | txPlayStart (v : Time)
  | txPlayEnd (v : Time)
  | dlmCnt (v : Nat)
  | guardValid (v : Bool)
  | guardStart (v : Time)
  | txEn (v : Bool)
  | dbgInd (v : Bool)
  | sampleOut (v : Byte)
  | tickPending (v : Bool)
  | tmrNext (v : Time)
  | rxcState (v : RxcState)
  | rxcCnt (v : Nat)
  | rxcSel (v : Byte)
  | rxcT0 (v : Time)
  | loopPhase (v : LoopPhase)
  | drSnap (v : Nat)
  | drN (v : Nat)
  | drI (v : Nat)
  | drActive (v : Bool)
  | now (v : Time)
  | wdtLast (v : Time)
  | hostOut (v : List Byte)
  /-- a stretch of HOST_OUT, as in `HOST_OUT[70 .. 133]` -/
  | hostOutFrom (i : Nat) (v : List Byte)
  | radio (v : List RadioRequest)
  | sampleWr (v : List (Time × Byte))
  | wdtKick (v : List Time)
  deriving DecidableEq, Repr

/-- Whether an assertion holds. -/
def Observation.holds (s : State) : Observation → Bool
  | .mode v => s.mode == v
  | .rxHead v => s.rxHead == v
  | .rxTail v => s.rxTail == v
  | .txFillA v => s.txFillA == v
  | .txLenA v => s.txLenA == v
  | .txLenB v => s.txLenB == v
  | .txPlayStart v => s.txPlayStart == v
  | .txPlayEnd v => s.txPlayEnd == v
  | .dlmCnt v => s.dlmCnt == v
  | .guardValid v => s.guardValid == v
  | .guardStart v => s.guardStart == v
  | .txEn v => s.txEn == v
  | .dbgInd v => s.dbgInd == v
  | .sampleOut v => s.sampleOut == v
  | .tickPending v => s.tickPending == v
  | .tmrNext v => s.tmrNext == v
  | .rxcState v => s.rxcState == v
  | .rxcCnt v => s.rxcCnt == v
  | .rxcSel v => s.rxcSel == v
  | .rxcT0 v => s.rxcT0 == v
  | .loopPhase v => s.loopPhase == v
  | .drSnap v => s.drSnap == v
  | .drN v => s.drN == v
  | .drI v => s.drI == v
  | .drActive v => s.drActive == v
  | .now v => s.now == v
  | .wdtLast v => s.wdtLast == v
  | .hostOut v => s.hostOut == v
  | .hostOutFrom i v => (s.hostOut.drop i).take v.length == v
  | .radio v => s.radio == v
  | .sampleWr v => s.sampleWr == v
  | .wdtKick v => s.wdtKick == v

/-- One line of a program (R83). -/
inductive Line where
  /-- `@t=n` -/
  | at (n : Time)
  /-- `host ...` -/
  | host (h : HostText)
  /-- `tick`, with `sample=v` or without -/
  | tick (v : Option SampleRead)
  /-- `loop`, with `squelch=q` or without -/
  | loop (q : Option Bool)
  /-- `expect ...` -/
  | expect (o : Observation)
  deriving DecidableEq, Repr

/-- `ticks k sample=f(i)` (R83). -/
def Line.ticks (k : Nat) (f : Nat → SampleRead) : List Line := (List.range k).map fun i => .tick (some (f i))

/-- The steps that come before any other at the current NOW: the watchdog's, with a free draw, and the timer's (R182). -/
def settle : Nat → State → Result
  | 0, s => .next s
  | n + 1, s =>
    if watchdogDue s then andThen (exec (.envWdtExpire (Config.freeReset s.draws)) (nextDraw s)) (settle n)
    else if strobeDue s then andThen (exec .timerStrobe s) (settle n)
    else .next s

/-- How many such steps there can be: one watchdog reset, and the strobes up to NOW. -/
def settleBound (s : State) : Nat := (s.now.toNat - s.tmrNext.toNat) / s.cfg.tickPeriodUs + 2

/-- NOW moves to n, which is not below it, then what falls due is taken (R83). -/
def advanceTo (n : Time) (s : State) : Result :=
  if n < s.now then .refused (.scenario .timeBackwards)
  else
    andThen (if s.now < n then exec (.envTime (n - s.now)) s else .next s) fun s => settle (settleBound s) s

/-- With nothing pending, NOW moves up to TMR_NEXT and what is due there is taken (R83). -/
def toStrobe (s : State) : Result :=
  if s.tickPending then .next s
  else if s.now < s.tmrNext then advanceTo s.tmrNext s
  else settle (settleBound s) s

/-- TICK at the current NOW; a sample not given is a draw (R42, R83). -/
def runTick (v : Option SampleRead) (s : State) : Result :=
  match v with
  | some d => exec (.tick d) s
  | none => exec (.tick (Config.freeSample s.draws)) (nextDraw s)

/-- Agent L's steps up to the end of the iteration or to a hold (R83). No TICK runs inside, so a drain's head write and send are
one step (log entry 23). -/
def iterate (q : Bool) : Nat → State → Result
  | 0, s => .next s
  | n + 1, s =>
    if agentLEnabled s then
      andThen (exec (.loopIter ⟨q, false⟩) s) fun t => if t.loopPhase = .iterStart then .next t else iterate q n t
    else .next s

/-- How many steps an iteration can have: its start, 11 of the collector, and those of the drain (R160). -/
def iterateBound (s : State) : Nat := s.cfg.cRx + 14

/-- One iteration; a squelch level not given is a draw (R42, R83). -/
def runLoop (q : Option Bool) (s : State) : Result :=
  match q with
  | some b => iterate b (iterateBound s) s
  | none => iterate (Config.freeSquelch s.draws) (iterateBound s) (nextDraw s)

/-- The host's bytes, appended in order (R83). -/
def appendHost : List Byte → State → Result
  | [], s => .next s
  | b :: bs, s => andThen (exec (.envHostByte b) s) (appendHost bs)

/-- What one line does (R83). Where the advance of a `tick` line makes the watchdog expire, the block is reset as on an `@t`
line: nothing is pending afterwards, and the line's TICK is no step (log entry 21). -/
def runLine : Line → State → Result
  | .at n, s => advanceTo n s
  | .host h, s => if h.wellFormed then appendHost h.bytes s else .refused (.scenario .frameWidth)
  | .tick v, s => andThen (toStrobe s) (runTick v)
  | .loop q, s => runLoop q s
  | .expect o, s => if o.holds s then .next s else .refused (.scenario .expectation)

/-- A program, line by line (R83). -/
def runLines : List Line → State → Result
  | [], s => .next s
  | l :: ls, s => andThen (runLine l s) (runLines ls)

end Sys2Proof.Machine
end

