-- ==== Sys2Proof/Tests/Slice0.lean ====
section
/-! SUPPORT. The model's own tests: ill-formed terms, words written out from the spec, single steps whose results the spec's
vectors give (95_test_vectors.md, by their ids), and a witness for every statement's hypotheses. -/

namespace Sys2Proof.Tests

open Sys2Proof.Machine

/-! ### Helpers -/

/-- A view of the next state, if there is one. -/
def after {α : Type} (r : Result) (f : State → α) : Option α :=
  match r with
  | .next t => some (f t)
  | _ => none

/-- The refusal, if there is one. -/
def refusal (r : Result) : Option Refusal :=
  match r with
  | .refused e => some e
  | _ => none

/-- The common start state in Receive mode (95_test_vectors.md) at a given NOW. -/
def rxAt (now : Time) : State := { State.reset with now := now, tmrNext := now + 125, wdtLast := now }

/-- Agent L about to scan in Transmit mode, entered at NOW. -/
def txAt (now : Time) : State :=
  { rxAt now with mode := .transmit, txEn := true, dbgInd := true, guardValid := true, guardStart := now, loopPhase := .txBranch }

/-- Agent L about to take a command, the given bytes waiting. -/
def cmdAt (now : Time) (bs : List Byte) : State := { rxAt now with loopPhase := .rxCmd, hostIn := bs }

/-- A collector waiting for the parameters of a selector since t0. -/
def paramAt (now t0 : Time) (sel : Byte) (bs : List Byte) : State :=
  { cmdAt now bs with rxcState := .param, rxcSel := sel, rxcT0 := t0 }

/-- A parameter choice small enough to run through (R7 to R14). -/
def smallCfg : Config.Params :=
  { Config.defaults with cRx := 8, cTx := 4, mTx := 1, drainMin := 2, runawayMaxUs := 50, paramTimeoutUs := 20 }

/-- The start state with the small parameters. -/
def small : State := { rxAt 100 with cfg := smallCfg }

/-- Three samples waiting to be drained. -/
def smallDrain : State := { small with loopPhase := .rxDrain, rxTail := 3, rxBuf := [(0, 7), (1, 8), (2, 9)] }

/-- The small Transmit state. -/
def smallTx : State :=
  { small with mode := .transmit, txEn := true, guardValid := true, guardStart := 100, loopPhase := .txBranch }

/-- Playing L bytes of buffer A in the window of TX-1 to TX-4. -/
def playing (now : Time) (len : Nat) (m : Mem) : State :=
  { txAt now with
    txFillA := false, txLenA := len, txPlayStart := 1000000, txPlayEnd := 1125000, txBufA := m }

/-! ### Well-formedness -/

/-- The payload of TX.INGEST is not empty (R116). -/
theorem test_illFormed_ingest : (Instr.txIngest []).wellFormed = false := by decide
/-- Selector 2 is PTT_UP, not an ignored selector (R146). -/
theorem test_illFormed_txIgnore : (Instr.cmdTxIgnore 2).wellFormed = false := by decide
theorem test_illFormed_reset : (Instr.reset ⟨0, 2 ^ 64⟩).wellFormed = false := by decide
theorem test_illFormed_expire : (Instr.envWdtExpire ⟨0, 2 ^ 64⟩).wellFormed = false := by decide
/-- An advance is at least 1 (R40). -/
theorem test_illFormed_time : (Instr.envTime 0).wellFormed = false := by decide
/-- TUNE_TO's fields are 7, 7, 2 and 1 bytes (R69): one width wrong in each. -/
theorem test_illFormed_tune :
    (Instr.frameTuneTo 0 ⟨[1, 2, 3, 4, 5, 6], [1, 2, 3, 4, 5, 6, 7], [1, 2], 0⟩).wellFormed = false ∧
    (Instr.frameTuneTo 0 ⟨[1, 2, 3, 4, 5, 6, 7], [1, 2, 3, 4, 5, 6, 7, 8], [1, 2], 0⟩).wellFormed = false ∧
    (Instr.frameTuneTo 0 ⟨[1, 2, 3, 4, 5, 6, 7], [1, 2, 3, 4, 5, 6, 7], [1], 0⟩).wellFormed = false := by decide
/-- Selectors 1, 3 and 4 act in Receive mode (R75). -/
theorem test_illFormed_ignore :
    (Instr.frameIgnore 0 1).wellFormed = false ∧ (Instr.frameIgnore 0 3).wellFormed = false ∧
    (Instr.frameIgnore 0 4).wellFormed = false := by decide
theorem test_illFormed_frameTxIgnore : (Instr.frameTxIgnore 2).wellFormed = false := by decide

/-! ### Decoding: ids from the tables of R80 and R81, frames from S-1 -/

theorem test_decode_sampler :
    decode ⟨.opid, [0x01]⟩ = .ok .timerStrobe ∧ decode ⟨.opid, [0x10, 0x00, 0x5A]⟩ = .ok (.tick (.value 0x5A)) ∧
    decode ⟨.opid, [0x11, 0x01, 0x00]⟩ = .ok (.tickRx .fault) ∧ decode ⟨.opid, [0x12]⟩ = .ok .tickTx := ⟨rfl, rfl, rfl, rfl⟩

/-- Log entry 9: bit 0 is the squelch level, bit 1 the head write apart. -/
theorem test_decode_drain :
    decode ⟨.opid, [0x20, 0x01]⟩ = .ok (.rxDrain ⟨true, false⟩) ∧
    decode ⟨.opid, [0x20, 0x02]⟩ = .ok (.rxDrain ⟨false, true⟩) := ⟨rfl, rfl⟩

theorem test_decode_receive :
    decode ⟨.opid, [0x30]⟩ = .ok .rxCmd ∧ decode ⟨.opid, [0x31]⟩ = .ok .cmdPttDown ∧
    decode ⟨.opid, [0x32]⟩ = .ok .cmdTuneTo ∧ decode ⟨.opid, [0x33]⟩ = .ok .cmdFilters ∧
    decode ⟨.opid, [0x34]⟩ = .ok .cmdIgnore ∧ decode ⟨.opid, [0x35]⟩ = .ok .cmdAbandon := ⟨rfl, rfl, rfl, rfl, rfl, rfl⟩

theorem test_decode_transmit :
    decode ⟨.opid, [0x40]⟩ = .ok .txScan ∧ decode ⟨.opid, [0x41, 0x11, 0x22]⟩ = .ok (.txIngest [0x11, 0x22]) ∧
    decode ⟨.opid, [0x42]⟩ = .ok .txSwap ∧ decode ⟨.opid, [0x43]⟩ = .ok .cmdPttUp ∧
    decode ⟨.opid, [0x44, 0x07]⟩ = .ok (.cmdTxIgnore 0x07) := ⟨rfl, rfl, rfl, rfl, rfl⟩

theorem test_decode_control :
    decode ⟨.opid, [0x50]⟩ = .ok .modeEnterTx ∧ decode ⟨.opid, [0x51]⟩ = .ok .modeEnterRx ∧
    decode ⟨.opid, [0x52]⟩ = .ok .guardCheck ∧ decode ⟨.opid, [0x60]⟩ = .ok .wdtKick ∧
    decode ⟨.opid, [0x61, 0x00]⟩ = .ok (.loopIter ⟨false, false⟩) := ⟨rfl, rfl, rfl, rfl, rfl⟩

theorem test_decode_reset :
    decode ⟨.opid, [0x70, 0xAB, 0, 0, 0, 0, 0, 0, 0, 2]⟩ = .ok (.reset ⟨0xAB, 2⟩) ∧
    decode ⟨.opid, [0xE2, 0xAB, 0, 0, 0, 0, 0, 0, 1, 0]⟩ = .ok (.envWdtExpire ⟨0xAB, 256⟩) := ⟨rfl, rfl⟩

theorem test_decode_environment :
    decode ⟨.opid, [0xE0, 0, 0, 0, 0, 0, 0, 0, 124]⟩ = .ok (.envTime 125) ∧
    decode ⟨.opid, [0xE1, 0x41]⟩ = .ok (.envHostByte 0x41) := ⟨rfl, rfl⟩

theorem test_decode_pttDown :
    decode ⟨.rxFrame, [0xFF, 0x00, 0xFF, 0x00, 0xFF, 0x00, 0xFF, 0x00, 0x01]⟩ =
      .ok (.framePttDown 0xFF00FF00FF00FF00) := rfl

/-- P2, step 1. -/
theorem test_decode_tuneTo :
    decode ⟨.rxFrame, [0xFF, 0x00, 0xFF, 0x00, 0xFF, 0x00, 0xFF, 0x00, 0x03, 0x31, 0x34, 0x36, 0x2E, 0x35, 0x32, 0x30,
      0x31, 0x34, 0x36, 0x2E, 0x35, 0x32, 0x30, 0x30, 0x30, 0x31]⟩ =
      .ok (.frameTuneTo 0xFF00FF00FF00FF00
        ⟨[0x31, 0x34, 0x36, 0x2E, 0x35, 0x32, 0x30], [0x31, 0x34, 0x36, 0x2E, 0x35, 0x32, 0x30], [0x30, 0x30], 0x31⟩) := rfl

/-- P2, step 2. -/
theorem test_decode_filters :
    decode ⟨.rxFrame, [0xFF, 0x00, 0xFF, 0x00, 0xFF, 0x00, 0xFF, 0x00, 0x04, 0x31, 0x30, 0x31]⟩ =
      .ok (.frameFilters 0xFF00FF00FF00FF00 ⟨0x31, 0x30, 0x31⟩) := rfl

/-- RC-2: PTT_UP's selector does nothing in Receive mode. RC-5: the first 8 bytes are not compared. -/
theorem test_decode_ignore :
    decode ⟨.rxFrame, [0xFF, 0x00, 0xFF, 0x00, 0xFF, 0x00, 0xFF, 0x00, 0x02]⟩ = .ok (.frameIgnore 0xFF00FF00FF00FF00 2) ∧
    decode ⟨.rxFrame, [0x00, 0xFF, 0x00, 0xFF, 0x00, 0xFF, 0x00, 0xFF, 0x00]⟩ =
      .ok (.frameIgnore 0x00FF00FF00FF00FF 0) := ⟨rfl, rfl⟩

theorem test_decode_txFrames :
    decode ⟨.txFrame, [0xFF, 0x00, 0xFF, 0x00, 0xFF, 0x00, 0xFF, 0x00, 0x02]⟩ = .ok .framePttUp ∧
    decode ⟨.txFrame, [0xFF, 0x00, 0xFF, 0x00, 0xFF, 0x00, 0xFF, 0x00, 0x03]⟩ = .ok (.frameTxIgnore 3) ∧
    decode ⟨.txFrame, [0xFF, 0x00, 0xFF, 0x00, 0xFF, 0x00, 0xFF, 0xFF, 0x02]⟩ = .error .noDelimiter := ⟨rfl, rfl, rfl⟩

/-- R82: an unlisted id is refused by name. -/
theorem test_decode_unlisted :
    decode ⟨.opid, [0x02]⟩ = .error (.unknownId 0x02) ∧ decode ⟨.opid, [0xE3, 0x00]⟩ = .error (.unknownId 0xE3) := ⟨rfl, rfl⟩

/-- R88: a FRAME9 value's high byte is frame byte 0. -/
theorem test_decode_tableWord :
    decodeTableWord 72 0xFF00FF00FF00FF0001 = some (.framePttDown 0xFF00FF00FF00FF00) ∧
    decodeTableWord 72 0xFF00FF00FF00FF0002 = some .framePttUp ∧ decodeTableWord 8 0x52 = some .guardCheck := by decide

/-! ### Timer and handler -/

/-- TM-1. -/
theorem test_strobe :
    after (exec .timerStrobe { rxAt 0 with now := 125 }) (fun t => (t.tickPending, t.tmrNext, errorEvents t)) =
      some (true, 250, []) := by decide

/-- TM-2, its second strobe: the event records 250. -/
theorem test_strobe_coalesces :
    after (exec .timerStrobe { rxAt 0 with now := 500, tickPending := true, tmrNext := 250 })
      (fun t => (t.tickPending, t.tmrNext, errorEvents t)) =
      some (true, 375, [⟨500, .event .tickCoalesced, .time 250⟩]) := by decide

/-- TM-3. -/
theorem test_tick_receive :
    after (exec (.tick (.value 0x10)) { rxAt 125 with tickPending := true })
      (fun t => (t.tickPending, t.rxTail, slot t .rxBuf 0)) = some (false, 1, 0x10) := by rfl

/-- TM-4 and TX-8: in Transmit with nothing to play, nothing is written. -/
theorem test_tick_transmit :
    after (exec (.tick (.value 0x10)) { txAt 125 with tickPending := true })
      (fun t => (t.tickPending, t.rxTail, t.sampleWr)) = some (false, 0, []) := by decide

/-- RX-2: the cursor wraps. -/
theorem test_tickRx_wraps :
    after (exec (.tickRx (.value 0x7F)) { rxAt 125 with rxTail := 3999 }) (fun t => (t.rxTail, t.rxBuf)) =
      some (0, [(3999, 0x7F)]) := by decide

/-- RX-3. -/
theorem test_tickRx_fault :
    after (exec (.tickRx .fault) { rxAt 18125 with rxTail := 144 }) (fun t => (t.rxTail, t.rxBuf, errorEvents t)) =
      some (144, [], [⟨18125, .event .sampleFault, .count 144⟩]) := by decide

/-- TX-2: index 499. -/
theorem test_tickTx_emits :
    after (exec .tickTx (playing 1062500 1000 [(498, 1), (499, 4), (500, 9)])) (fun t => (t.sampleOut, t.sampleWr)) =
      some (4, [(1062500, 4)]) := by decide

/-- TX-4: at END nothing is written. -/
theorem test_tickTx_end :
    after (exec .tickTx (playing 1125000 1000 [(999, 4)])) (fun t => (t.sampleOut, t.sampleWr)) = some (0, []) := by decide

/-- TX-3 and TX-7. -/
theorem test_playIndex :
    playIndex 1124999 1000000 1125000 1000 = 998 ∧ playIndex 122499 0 122500 980 = 978 := by decide

/-- R204's table at the defaults: 8000 samples per second, a lap of 500 ms, 64 samples in 8 ms. -/
theorem test_derivedRates_rx :
    rxSamplesPerSecond Config.defaults = 8000 ∧ rxLapUs Config.defaults = 500000 ∧
    Config.defaults.drainMin = 64 ∧ drainThresholdUs Config.defaults = 8000 := by decide

/-- R204's table at the defaults: 980 to 1000 bytes, 122.5 to 125 ms, 999/125000 per microsecond. -/
theorem test_derivedRates_tx :
    playingBufferRange Config.defaults = (980, 1000) ∧ playDuration Config.defaults 980 = 122500 ∧
    playDuration Config.defaults 1000 = 125000 ∧ indexStep Config.defaults 1000 = (999, 125000) := by decide

/-! ### The drain -/

/-- DR-3: the count wraps around the buffer's end. -/
theorem test_drain_start :
    after (exec (.rxDrain ⟨false, false⟩) { rxAt 0 with loopPhase := .rxDrain, rxHead := 3990, rxTail := 60 })
      (fun t => (t.drActive, t.drN, t.drSnap, t.rxHead)) = some (true, 70, 60, 3990) := by decide

/-- DR-5 on two bytes: squelch replaces every byte sent, and the head moves to the snapshot. -/
theorem test_drain_squelch :
    after (exec (.rxDrain ⟨true, false⟩)
        { smallDrain with drActive := true, drSnap := 2, drN := 2, drI := 2, scratch := [(0, 7), (1, 8)] })
      (fun t => (t.hostOut, t.rxHead, t.drActive, t.rxBuf)) =
      some ([0x80, 0x80], 2, false, [(0, 7), (1, 8), (2, 9)]) := by decide

/-- DR-6's shape with the head write a step apart (R60): a sample lands between it and the send, and what is sent is the window
before the snapshot. -/
theorem test_drain_headApart :
    after (runInstrs [.rxDrain ⟨true, true⟩, .tickRx (.value 5), .rxDrain ⟨false, true⟩]
        { smallDrain with drActive := true, drSnap := 3, drN := 3, drI := 3, scratch := [(0, 7), (1, 8), (2, 9)] })
      (fun t => (t.hostOut, t.rxHead, t.rxTail, t.drActive)) = some ([7, 8, 9], 3, 4, false) := by decide

/-! ### The Receive-mode framer -/

/-- RC-4: eight unread zeros and selector 1. -/
theorem test_rxCmd_pttDown :
    after (exec .rxCmd { cmdAt 0 [0x01] with rxcState := .hdr, rxcCnt := 8 })
      (fun t => (t.mode, t.txEn, t.guardValid, t.loopPhase, t.hostIn)) =
      some (.transmit, true, true, .iterStart, []) := by decide

/-- RC-6: availability is tested before the deadline. -/
theorem test_rxCmd_available_first :
    after (exec .rxCmd (paramAt 500000 0 4 [0x31, 0x31, 0x30])) (fun t => (t.radio, t.loopPhase)) =
      some ([.filters true true false [0x31, 0x31, 0x30]], .rxDrain) := by decide

/-- MD-1, reached by PTT_DOWN. -/
theorem test_cmdPttDown :
    after (exec .cmdPttDown { rxAt 5000 with dlmCnt := 5 }) (fun t => (t.mode, t.guardStart, t.dlmCnt)) =
      some (.transmit, 5000, 0) := by decide

/-- RXC_PBUF after S-9's parameters. -/
def tuneBytes : Mem :=
  [(0, 0x31), (1, 0x34), (2, 0x36), (3, 0x2E), (4, 0x35), (5, 0x32), (6, 0x30), (7, 0x31), (8, 0x34),
    (9, 0x36), (10, 0x2E), (11, 0x35), (12, 0x32), (13, 0x30), (14, 0x30), (15, 0x30), (16, 0x31)]

/-- S-9. -/
theorem test_cmdTuneTo :
    after (exec .cmdTuneTo { rxAt 0 with rxcPbuf := tuneBytes }) (fun t => (t.radio, t.mode)) =
      some ([.tune [0x31, 0x34, 0x36, 0x2E, 0x35, 0x32, 0x30] [0x31, 0x34, 0x36, 0x2E, 0x35, 0x32, 0x30] [0x30, 0x30] 0x31],
        .receive) := by decide

/-- R49: with a slot unwritten nothing is read and nothing is emitted. -/
theorem test_cmdTuneTo_unwritten :
    after (exec .cmdTuneTo { rxAt 0 with rxcPbuf := tuneBytes.take 16 }) (fun t => (t.radio, t.history.length)) = some ([], 1) := by
  decide

/-- RC-9: only the byte 31 gives flag 1. -/
theorem test_cmdFilters :
    after (exec .cmdFilters { rxAt 0 with rxcPbuf := [(0, 0x32), (1, 0x41), (2, 0x30)] }) (fun t => t.radio) =
      some [.filters false false false [0x32, 0x41, 0x30]] := by decide

/-- R134, R137, R146: in Transmit the three commands are CMD.TX_IGNORE of their selectors. -/
theorem test_commandsInTransmit :
    after (runInstrs [.cmdPttDown, .cmdTuneTo, .cmdFilters] { txAt 9 with history := [] })
      (fun t => (t.mode, t.radio, t.history)) =
      some (.transmit, [], [⟨9, .op .cmdTxIgnore, .byte 1⟩, ⟨9, .op .cmdTxIgnore, .byte 3⟩, ⟨9, .op .cmdTxIgnore, .byte 4⟩]) := by
  decide

/-- RC-3. -/
theorem test_cmdIgnore :
    after (exec .cmdIgnore { rxAt 9 with rxcSel := 7, history := [] }) (fun t => (t.mode, t.history)) =
      some (.receive, [⟨9, .op .cmdIgnore, .byte 7⟩]) := by decide

/-- RC-8: 10 of 17 bytes at the deadline. -/
theorem test_cmdAbandon :
    after (exec .cmdAbandon (paramAt 500000 0 3 (List.replicate 10 0x31))) (fun t => (t.hostIn, t.radio, errorEvents t)) =
      some ([], [], [⟨500000, .event .cmdTimeout, .timeout 3 10⟩]) := by decide

/-! ### The Transmit-mode framer -/

/-- FR-8, chunk 2: the delimiter completes, PTT_UP acts, and nothing of the chunk is ingested. -/
theorem test_txScan_pttUp :
    after (exec .txScan { txAt 0 with dlmCnt := 4, txLenA := 5, hostIn := [0xFF, 0x00, 0xFF, 0x00, 0x02, 0xBB] })
      (fun t => (t.mode, t.txLenA, t.hostIn, t.dlmCnt)) =
      some (.receive, 5, [], 0) := by decide

/-- FR-4: the selector is excised, the delimiter's bytes are payload. -/
theorem test_txScan_payload :
    after (exec .txScan { txAt 0 with hostIn := [0x10, 0xFF, 0x00, 0xFF, 0x00, 0xFF, 0x00, 0xFF, 0x00, 0x07, 0x20] })
      (fun t => (t.mode, t.txLenA, t.txBufA.map Prod.snd)) =
      some (.transmit, 10, [0x10, 0xFF, 0x00, 0xFF, 0x00, 0xFF, 0x00, 0xFF, 0x00, 0x20]) := by decide

/-- FR-5: the ninth byte of DELIM DELIM 02 is the selector FF, and no PTT_UP follows. -/
theorem test_scan_doubleDelimiter :
    scanBytes 0 [0xFF, 0x00, 0xFF, 0x00, 0xFF, 0x00, 0xFF, 0x00, 0xFF, 0x00, 0xFF, 0x00, 0xFF, 0x00, 0xFF, 0x00, 0x02] =
      ⟨0, [0xFF, 0x00, 0xFF, 0x00, 0xFF, 0x00, 0xFF, 0x00, 0x00, 0xFF, 0x00, 0xFF, 0x00, 0xFF, 0x00, 0x02], [0xFF], false⟩ := by
  decide

/-- S-3 (FR-7): the near-match ends at count 0. -/
theorem test_scan_nearMatch :
    (scanBytes 0 [0xFF, 0x00, 0xFF, 0x00, 0xFF, 0x00, 0xFF, 0xFF]).dlmCnt = 0 := by decide

/-- IN-3: the 980th byte swaps. -/
theorem test_txIngest_swaps :
    after (exec (.txIngest [0x55]) { txAt 1000 with txLenA := 979, txLenB := 8 })
      (fun t => (t.txLenA, t.txFillA, t.txPlayEnd, t.txBufA)) =
      some (980, false, 123500, [(979, 0x55)]) := by decide

/-- IN-5 on a smaller overflow: 999 filled, two bytes, one dropped. -/
theorem test_txIngest_drops :
    after (exec (.txIngest [0x55, 0x66]) { txAt 1000 with txLenA := 999 })
      (fun t => (t.txLenA, t.txBufA, errorEvents t)) =
      some (1000, [(999, 0x55)], [⟨1000, .event .txDrop, .count 1⟩]) := by decide

/-- IN-4's swap: 1000 bytes play for 125000 microseconds. -/
theorem test_txSwap :
    after (exec .txSwap { txAt 2000 with txLenA := 1000, txLenB := 1000 })
      (fun t => (t.txFillA, t.txLenA, t.txLenB, t.txPlayStart, t.txPlayEnd)) = some (false, 1000, 0, 2000, 127000) := by decide

/-- FR-1. -/
theorem test_cmdPttUp :
    after (exec .cmdPttUp { txAt 0 with txLenA := 5 }) (fun t => (t.mode, t.txEn, t.guardValid, t.txLenA, t.dbgInd)) =
      some (.receive, false, false, 5, true) := by decide

/-- RC-2: PTT_UP in Receive mode is ignored. -/
theorem test_cmdPttUp_receive :
    after (exec .cmdPttUp { rxAt 9 with history := [] }) (fun t => (t.mode, t.history)) =
      some (.receive, [⟨9, .op .cmdIgnore, .byte 2⟩]) := by decide

/-- FR-3's CMD.TX_IGNORE(3). -/
theorem test_cmdTxIgnore :
    after (exec (.cmdTxIgnore 3) { txAt 9 with history := [] }) (fun t => (t.mode, t.history)) =
      some (.transmit, [⟨9, .op .cmdTxIgnore, .byte 3⟩]) := by decide

/-! ### Mode control, guard, watchdog, loop -/

/-- IN-8. -/
theorem test_modeEnterTx :
    after (exec .modeEnterTx { rxAt 5000 with txLenA := 3, txLenB := 4, txFillA := false, dlmCnt := 2 })
      (fun t => (t.txLenA, t.txLenB, t.txFillA, t.txPlayStart, t.txPlayEnd, t.dlmCnt)) = some (0, 0, true, 5000, 5000, 0) := by
  decide

/-- MD-2. -/
theorem test_modeEnterRx :
    after (exec .modeEnterRx { txAt 7 with txLenA := 3, txLenB := 4 })
      (fun t => (t.mode, t.txEn, t.guardValid, t.dbgInd, t.txLenA)) =
      some (.receive, false, false, true, 3) := by decide

/-- MD-4. -/
theorem test_guard_holds :
    after (exec .guardCheck { txAt 0 with now := 200000000 }) (fun t => (t.mode, errorEvents t)) = some (.transmit, []) := by
  decide

/-- MD-5. -/
theorem test_guard_fires :
    after (exec .guardCheck { txAt 0 with now := 200000001 }) (fun t => (t.mode, t.txEn, errorEvents t)) =
      some (.receive, false, [⟨200000001, .event .runaway, .count 200000001⟩]) := by decide

/-- MD-6's kick, which the history records too (R44). -/
theorem test_wdtKick :
    after (exec .wdtKick { rxAt 0 with now := 7000, history := [] }) (fun t => (t.wdtLast, t.wdtKick, emissions t.history)) =
      some (7000, [7000], [.wdtKick 7000]) := by decide

/-- MD-7, first atomic step: kick, then the drain's phase. -/
theorem test_loop_start :
    after (exec (.loopIter ⟨false, false⟩) { rxAt 7000 with rxTail := 10 }) (fun t => (t.wdtKick, t.loopPhase)) =
      some ([7000], .rxDrain) := by decide

/-- MD-8: with nothing to scan the Transmit branch ends the iteration. -/
theorem test_loop_transmit :
    after (exec (.loopIter ⟨false, false⟩) (txAt 0)) (fun t => (t.mode, t.loopPhase)) = some (.transmit, .iterStart) := by decide

/-- RS-3: a drain in flight is dropped, nothing is sent. -/
theorem test_reset :
    after (exec (.reset ⟨0x33, 1⟩) { smallDrain with drActive := true, drI := 1, drN := 3, hostIn := [1, 2], rxHead := 4 })
      (fun t => (t.drActive, t.rxHead, t.hostOut, t.hostIn, t.sampleOut)) = some (false, 0, [], [2], 0x33) := by decide

theorem test_envTime :
    after (exec (.envTime 125) (rxAt 0)) (fun t => t.now) = some 125 := by decide

theorem test_envHostByte :
    after (exec (.envHostByte 0x41) { rxAt 0 with hostIn := [0x40] }) (fun t => t.hostIn) = some [0x40, 0x41] := by decide

/-- RS-2, with the timeout of P4. -/
theorem test_envWdtExpire :
    after (exec (.envWdtExpire ⟨0, 0⟩) { txAt 0 with now := 309000000, wdtLast := 9000000 })
      (fun t => (t.mode, t.txEn, t.tmrNext, t.wdtLast, errorEvents t)) =
      some (.receive, false, 309000125, 309000000, [⟨309000000, .event .wdtReset, .time 9000000⟩]) := by decide

/-! ### Whole frames -/

/-- RC-4 as one frame, from the iteration's start: the kick comes first (R160). -/
theorem test_framePttDown :
    after (exec (.framePttDown 0) (rxAt 7)) (fun t => (t.mode, t.rxcSel, t.hostIn, t.loopPhase, t.wdtKick)) =
      some (.transmit, 1, [], .iterStart, [7]) := by decide

/-- R41, log entry 14: a frame taken leaves its nine ENV.HOST_BYTE entries before those of agent L's steps. -/
theorem test_frame_history :
    after (exec .framePttUp { txAt 0 with history := [] }) (fun t => t.history.map Entry.kind) =
      some (List.replicate 9 (.op .envHostByte) ++ [.op .guardCheck, .op .txScan, .op .cmdPttUp, .op .modeEnterRx]) := by
  decide

/-- S-9 as one frame. -/
theorem test_frameTuneTo :
    after (exec (.frameTuneTo 0 ⟨[0x31, 0x34, 0x36, 0x2E, 0x35, 0x32, 0x30], [0x31, 0x34, 0x36, 0x2E, 0x35, 0x32, 0x31],
        [0x30, 0x37], 0x33⟩) (cmdAt 0 [])) (fun t => (t.radio, t.mode, t.loopPhase)) =
      some ([.tune [0x31, 0x34, 0x36, 0x2E, 0x35, 0x32, 0x30] [0x31, 0x34, 0x36, 0x2E, 0x35, 0x32, 0x31] [0x30, 0x37] 0x33],
        .receive, .rxDrain) := by decide

/-- RC-9 as one frame. -/
theorem test_frameFilters :
    after (exec (.frameFilters 0 ⟨0x32, 0x41, 0x30⟩) (cmdAt 0 [])) (fun t => (t.radio, t.loopPhase)) =
      some ([.filters false false false [0x32, 0x41, 0x30]], .rxDrain) := by decide

/-- RC-2 as one frame. -/
theorem test_frameIgnore :
    after (exec (.frameIgnore 0xFF00FF00FF00FF00 2) (cmdAt 0 [])) (fun t => (t.mode, t.rxcSel, t.loopPhase)) =
      some (.receive, 2, .rxDrain) := by decide

/-- R41: a frame never overtakes a byte that waits, in either mode. -/
theorem test_frame_waits :
    after (exec (.framePttDown 0xFF00FF00FF00FF00) (cmdAt 0 [0x41])) (fun t => (t.mode, t.hostIn)) =
      some (.receive, [0x41, 0xFF, 0x00, 0xFF, 0x00, 0xFF, 0x00, 0xFF, 0x00, 0x01]) ∧
    after (exec .framePttUp { txAt 0 with hostIn := [0x41] }) (fun t => (t.mode, t.hostIn)) =
      some (.transmit, [0x41, 0xFF, 0x00, 0xFF, 0x00, 0xFF, 0x00, 0xFF, 0x00, 0x02]) := by decide

/-- FR-1 as one frame. -/
theorem test_framePttUp :
    after (exec .framePttUp (txAt 0)) (fun t => (t.mode, t.txLenA, t.dlmCnt)) = some (.receive, 0, 0) := by decide

/-- FR-3's frame: eight payload bytes. -/
theorem test_frameTxIgnore :
    after (exec (.frameTxIgnore 3) (txAt 0)) (fun t => (t.mode, t.txLenA, t.dlmCnt)) = some (.transmit, 8, 0) := by decide

/-! ### The step -/

/-- A placed table word is what the next step runs. -/
theorem test_step_placed :
    after (step (State.reset.withFetchWord 8 0x60)) (fun t => (t.wdtKick, t.script)) = some ([0], []) := by decide

/-- R182: the watchdog before the timer. -/
theorem test_step_watchdog :
    after (step { rxAt 0 with now := 300000000 }) (fun t => (t.wdtLast, (errorEvents t).length)) = some (300000000, 1) := by decide

/-- R83: a `tick` line moves NOW to the strobe and runs the handler. -/
theorem test_line_tick :
    after (runLine (.tick (some (.value 5))) (rxAt 0)) (fun t => (t.now, t.rxBuf, t.tmrNext)) = some (125, [(0, 5)], 250) := by
  decide

/-- R83: `@t` never goes back; `expect` asserts. R84: TUNE_TO's strings have their widths. -/
theorem test_line_refused :
    refusal (runLine (.at 99) (rxAt 100)) = some (.scenario .timeBackwards) ∧
    refusal (runLine (.at 100) (rxAt 100)) = none ∧
    refusal (runLine (.expect (.mode .transmit)) (rxAt 0)) = some (.scenario .expectation) ∧
    refusal (runLine (.expect (.hostOutFrom 1 [8])) { rxAt 0 with hostOut := [7, 8, 9] }) = none ∧
    refusal (runLine (.host (.tuneTo ⟨[1], [], [], 0⟩)) (rxAt 0)) = some (.scenario .frameWidth) := by decide

/-- P5's first two lines: PTT_DOWN and one iteration. -/
theorem test_lines_pttDown :
    after (runLines [.host .pttDown, .loop (some false), .expect (.mode .transmit)] (rxAt 0)) (fun t => (t.loopPhase, t.hostIn)) =
      some (.iterStart, []) := by decide

/-! ### Witnesses: each statement's hypotheses hold together somewhere, each clause at its edge -/

/-- The collector at its ninth header byte. -/
def ninth (b : Byte) : State := { cmdAt 0 [b] with rxcState := .hdr, rxcCnt := 8 }

/-- The small drain at its last byte, with the largest count, C_RX - 1 = 7. -/
def smallCommit : State :=
  { small with loopPhase := .rxDrain, rxTail := 7, drActive := true, drSnap := 7, drN := 7, drI := 7 }

theorem smallDrain_inv : Inv smallDrain where
  cfgValid := by decide
  rxHead_lt := by decide
  rxTail_lt := by decide
  txLenA_le := by decide
  txLenB_le := by decide
  filling_lt := by decide
  dlmCnt_le := by decide
  rxcCnt_le := by decide
  rxcCnt_zero := by decide
  guard_iff := by decide
  guardStart_zero := by decide
  txEn_iff := by decide
  collecting := by decide
  draining := by decide
  arrays := fun a => by cases a <;> decide

theorem smallTx_inv : Inv smallTx where
  cfgValid := by decide
  rxHead_lt := by decide
  rxTail_lt := by decide
  txLenA_le := by decide
  txLenB_le := by decide
  filling_lt := by decide
  dlmCnt_le := by decide
  rxcCnt_le := by decide
  rxcCnt_zero := by decide
  guard_iff := by decide
  guardStart_zero := by decide
  txEn_iff := by decide
  collecting := by decide
  draining := by decide
  arrays := fun a => by cases a <;> decide

/-- The small Transmit state past its guard's bound, at the start of an iteration. -/
def smallOverdue : State := { smallTx with now := 151, loopPhase := .iterStart }

theorem smallOverdue_inv : Inv smallOverdue := { smallTx_inv with collecting := by decide, draining := by decide }

/-- The small Transmit state about to scan a whole PTT_UP frame. -/
def smallPttUp : State := { smallTx with hostIn := [0xFF, 0x00, 0xFF, 0x00, 0xFF, 0x00, 0xFF, 0x00, 0x02] }

theorem smallPttUp_inv : Inv smallPttUp := { smallTx_inv with }

/-- The small state at the ninth header byte, which is PTT_DOWN. -/
def smallPttDown : State := { small with loopPhase := .rxCmd, rxcState := .hdr, rxcCnt := 8, hostIn := [1] }

theorem smallPttDown_inv : Inv smallPttDown :=
  { smallDrain_inv with
    rxTail_lt := by decide, rxcCnt_le := by decide, rxcCnt_zero := by decide, collecting := by decide
    draining := by decide, arrays := fun a => by cases a <;> decide }

/-- The small Transmit state whose watchdog has expired. -/
def smallExpired : State := { smallTx with now := 300000100 }

theorem smallExpired_inv : Inv smallExpired := { smallTx_inv with }

/-- TimerStrobeLatchesAndReloads, with the latch clear and set. -/
theorem witness_strobe :
    ({ rxAt 0 with now := 125 } : State).tmrNext ≤ ({ rxAt 0 with now := 125 } : State).now ∧
    (let s := { rxAt 0 with now := 125, tickPending := true }
     s.tmrNext ≤ s.now ∧ s.tickPending = true) := by decide

/-- TickRxStoresOneSampleOrNone and TickClearsLatchAndRunsThePathOfTheMode: the last slot; the latch clear; Transmit with
a full playing buffer. -/
theorem witness_tick :
    (let s := { rxAt 0 with rxTail := 3999, tickPending := true }
     s.mode = .receive ∧ s.rxTail < s.cfg.cRx ∧ s.tickPending = true) ∧
    (rxAt 0).tickPending = false ∧
    (let s := { txAt 0 with txLenB := 1000, tickPending := true }
     s.mode = .transmit ∧ s.tickPending = true ∧ playingLen s ≤ s.cfg.cTx) := by decide

/-- TickTxEmitsOnlyInsideTheWindow and EmittedIndexIsInsideTheFilledRange: the first and the last instant of the window,
with two bytes and with one; and each way to be outside it. -/
theorem witness_window :
    windowOpen (playing 1000000 1 []) = true ∧ windowOpen (playing 1124999 1000 []) = true ∧
    2 ≤ playingLen (playing 1124999 1000 []) ∧ playingLen (playing 1124999 1000 []) ≤ Config.defaults.cTx ∧
    playingLen (playing 1000000 0 []) = 0 ∧ (playing 999999 1 []).now < (playing 999999 1 []).txPlayStart ∧
    (playing 1125000 1 []).txPlayEnd ≤ (playing 1125000 1 []).now ∧ (playing 1125000 1 []).mode = .transmit := by decide

/-- DrainStartSnapshotsOrSkips: one below DRAIN_MIN and at it. -/
theorem witness_drainStart :
    (let s := { rxAt 0 with loopPhase := .rxDrain, rxTail := 63 }
     s.drActive = false ∧ s.mode = .receive ∧ 0 < s.cfg.cRx ∧ ((63 : Nat) : Int) = ((s.rxTail : Int) - s.rxHead) % s.cfg.cRx) ∧
    (let s := { rxAt 0 with loopPhase := .rxDrain, rxHead := 3990, rxTail := 54 }
     s.drActive = false ∧ s.mode = .receive ∧ ((64 : Nat) : Int) = ((s.rxTail : Int) - s.rxHead) % s.cfg.cRx) := by decide

/-- DrainCopiesOneByte: the last copy of the largest drain. -/
theorem witness_drainCopy :
    (let s := { smallCommit with drI := 6 }
     s.drActive = true ∧ s.drI < s.drN ∧ s.drI + 1 < s.cfg.cRx) := by decide

/-- DrainCommitGatesAndSends: the largest drain, before its head write and after it. -/
theorem witness_drainCommit :
    (smallCommit.drActive = true ∧ smallCommit.drI = smallCommit.drN ∧ smallCommit.drN < smallCommit.cfg.cRx ∧
      smallCommit.rxHead ≠ smallCommit.drSnap) ∧
    (let s := { smallCommit with rxHead := 7 }
     s.drActive = true ∧ s.drI = s.drN ∧ s.drN < s.cfg.cRx ∧ s.rxHead = s.drSnap) := by decide

/-- UndisturbedDrainSendsTheUnsentWindow. -/
theorem witness_undisturbedDrain :
    Inv smallDrain ∧ smallDrain.loopPhase = .rxDrain ∧ smallDrain.drActive = false ∧ smallDrain.mode = .receive ∧
    smallDrain.cfg.drainMin ≤ unsentCount smallDrain := ⟨smallDrain_inv, by decide⟩

/-- StoredSamplesCountModuloCapacity: exactly C_RX samples. -/
theorem witness_stored :
    Inv smallDrain ∧ smallDrain.mode = .receive ∧ (List.replicate 8 (0x5A : Byte)).length ≤ smallDrain.cfg.cRx :=
  ⟨smallDrain_inv, by decide⟩

/-- IngestAppendsDropsAndSwaps: room for one byte; a full buffer that drops; at C_TX - M_TX and below it. -/
theorem witness_ingest :
    (let s := { smallTx with txLenA := 4 }
     fillingLen s ≤ s.cfg.cTx ∧ min 1 (s.cfg.cTx - fillingLen s) < 1) ∧
    (fillingLen { smallTx with txLenA := 2 } + 1 = smallTx.cfg.cTx - smallTx.cfg.mTx) ∧
    (fillingLen { smallTx with txLenA := 1 } + 1 < smallTx.cfg.cTx - smallTx.cfg.mTx) := by decide

/-- CollectorStartsAHeader. -/
theorem witness_collectorStart : (cmdAt 0 []).loopPhase = .rxCmd ∧ (cmdAt 0 []).rxcState = .idle := by decide

/-- HeaderByteIsCountedOrDispatched: count 7 and count 8; the selectors beside each boundary. -/
theorem witness_header :
    (let s := { cmdAt 0 [0x01] with rxcState := .hdr, rxcCnt := 7 }
     s.hostIn = (0x01 : Byte) :: [] ∧ s.rxcCnt < 8) ∧
    ((ninth 1).hostIn = (1 : Byte) :: [] ∧ (ninth 1).rxcState = .hdr ∧ (ninth 1).rxcCnt = 8) ∧
    (ninth 3).hostIn = (3 : Byte) :: [] ∧ (ninth 4).hostIn = (4 : Byte) :: [] ∧
    ((0 : Byte) ≠ 1 ∧ (0 : Byte) ≠ 3 ∧ (0 : Byte) ≠ 4) ∧ ((2 : Byte) ≠ 1 ∧ (2 : Byte) ≠ 3 ∧ (2 : Byte) ≠ 4) ∧
    ((255 : Byte) ≠ 1 ∧ (255 : Byte) ≠ 3 ∧ (255 : Byte) ≠ 4) := by decide

/-- TuneToCompletesWithItsParameters: exactly 17 bytes. -/
theorem witness_tuneTo :
    (let s := paramAt 0 0 3 (List.replicate 17 0x31)
     s.rxcState = .param ∧ s.rxcSel = 3 ∧ 17 ≤ s.hostIn.length) := by decide

/-- FiltersCompletesWithItsParameters: exactly 3 bytes. -/
theorem witness_filters :
    (let s := paramAt 0 0 4 [0x31, 0x30, 0x41]
     s.rxcState = .param ∧ s.rxcSel = 4 ∧ s.hostIn = (0x31 : Byte) :: 0x30 :: 0x41 :: []) := by decide

/-- TimedOutCommandIsAbandoned: one byte short at the deadline, for both commands. -/
theorem witness_timeout :
    (let s := paramAt 500000 0 3 (List.replicate 16 0x31)
     s.rxcState = .param ∧ s.hostIn.length < (if s.rxcSel = 3 then 17 else 3) ∧ s.cfg.paramTimeoutUs ≤ (s.now - s.rxcT0).toNat) ∧
    (let s := paramAt 500000 0 4 [0x31, 0x31]
     s.rxcState = .param ∧ s.hostIn.length < (if s.rxcSel = 3 then 17 else 3) ∧ s.cfg.paramTimeoutUs ≤ (s.now - s.rxcT0).toNat) := by
  decide

/-- HeldCollectorChangesNothing: no header byte; one microsecond before the deadline. -/
theorem witness_hold :
    (let s := { cmdAt 0 [] with rxcState := .hdr }
     s.loopPhase = .rxCmd ∧ s.rxcState = .hdr ∧ s.hostIn = []) ∧
    (let s := paramAt 499999 0 4 [0x31, 0x31]
     s.loopPhase = .rxCmd ∧ s.rxcState = .param ∧ s.hostIn.length < (if s.rxcSel = 3 then 17 else 3) ∧
       (s.now - s.rxcT0).toNat < s.cfg.paramTimeoutUs) := by decide

/-- HeldCollectorChangesNothing, the steps that are not enabled: each condition one short of what enables the step. -/
theorem witness_noStep :
    (let s := { rxAt 0 with now := 124 }
     s.now < s.tmrNext) ∧
    (rxAt 0).drActive = false ∧ (rxAt 0).loopPhase ≠ .rxDrain ∧
    (let s := { smallCommit with drI := 8 }
     s.drActive = true ∧ s.drN < s.drI) ∧
    ((rxAt 0).rxcState = .idle ∧ (rxAt 0).loopPhase ≠ .rxCmd) ∧
    (let s := paramAt 500000 0 4 [0x31, 0x31, 0x31]
     (if s.rxcSel = 3 then 17 else 3) ≤ s.hostIn.length) ∧
    (let s := { txAt 0 with now := 200000001 }
     s.loopPhase = .txBranch ∧ guardFires s = true) ∧
    (let s := { rxAt 0 with now := 299999999 }
     (s.now - s.wdtLast).toNat < s.cfg.wdtTimeoutUs) ∧
    (let s := { rxAt 0 with loopPhase := .txBranch }
     s.loopPhase = .txBranch ∧ s.mode = .receive ∧ guardFires s = false) := by decide

/-- HeldCollectorChangesNothing and CollectedParametersAreForwarded: the last slot each command reads, unwritten and written. -/
theorem witness_parameters :
    ¬written { rxAt 0 with rxcPbuf := tuneBytes.take 16 } .rxcPbuf 16 ∧
    ¬written { rxAt 0 with rxcPbuf := tuneBytes.take 2 } .rxcPbuf 2 ∧
    (∀ i, i < 17 → written { rxAt 0 with rxcPbuf := tuneBytes } .rxcPbuf i) ∧
    (∀ i, i < 3 → written { rxAt 0 with rxcPbuf := tuneBytes.take 3 } .rxcPbuf i) := by
  unfold written
  refine ⟨by decide, by decide, ?_, ?_⟩ <;> intro i h <;> interval_cases i <;> decide

/-- PttDownEntersTransmit, CollectedParametersAreForwarded, IgnoredCommandsChangeNothing, PttUpEntersReceive. -/
theorem witness_commands : (rxAt 0).mode = .receive ∧ (txAt 0).mode = .transmit := by decide

/-- The Transmit state about to scan the bytes from a match count. -/
def scanAt (c : Nat) (bs : List Byte) : State := { txAt 0 with dlmCnt := c, hostIn := bs, txLenA := 979 }

/-- What ScanTakesOneChunk's clauses look at: its common hypotheses, and the loop's result on the chunk. -/
def scanView (s : State) : Bool × ScanResult :=
  (s.loopPhase == .txBranch && s.mode == .transmit && !guardFires s && decide (fillingLen s ≤ s.cfg.cTx),
    scanLoop (s.hostIn.take s.hostIn.length) s.dlmCnt [] [])

/-- ScanTakesOneChunk: no byte; a PTT_UP; a selector alone; one payload byte that swaps. -/
theorem witness_scan :
    ((scanView (scanAt 0 [])).1 = true ∧ (scanAt 0 []).hostIn.length = 0 ∧ (scanAt 0 []).cfg.chunkMax = none) ∧
    scanView (scanAt 8 [0x02]) = (true, ⟨0, [], [], true⟩) ∧
    scanView (scanAt 8 [0x03]) = (true, ⟨0, [], [0x03], false⟩) ∧
    scanView (scanAt 0 [0x03]) = (true, ⟨0, [0x03], [], false⟩) := by decide

/-- DelimiterIsMatchedOnlyAfterTheDelimiter: the delimiter itself; a mismatch at the last position. -/
theorem witness_delimiter :
    ((scanBytes 0 [0xFF, 0x00, 0xFF, 0x00, 0xFF, 0x00, 0xFF, 0x00]).pttUp = false ∧
      (scanBytes 0 [0xFF, 0x00, 0xFF, 0x00, 0xFF, 0x00, 0xFF, 0x00]).dlmCnt = 8) ∧
    (0xFF : Byte) ≠ ([0xFF, 0x00, 0xFF, 0x00, 0xFF, 0x00, 0xFF, 0x00] : List Byte).getD 7 0 := by decide

/-- The six statements about whole frames. -/
theorem witness_frames :
    ((cmdAt 0 []).mode = .receive ∧ (cmdAt 0 []).loopPhase = .rxCmd ∧ (cmdAt 0 []).rxcState = .idle ∧
      (cmdAt 0 []).hostIn = []) ∧
    ((rxAt 0).mode = .receive ∧ (rxAt 0).loopPhase = .iterStart ∧ (rxAt 0).rxcState = .idle ∧ (rxAt 0).hostIn = []) ∧
    (TuneParams.mk [1, 2, 3, 4, 5, 6, 7] [1, 2, 3, 4, 5, 6, 7] [1, 2] 3).wellFormed = true ∧
    ((2 : Byte) ≠ 1 ∧ (2 : Byte) ≠ 3 ∧ (2 : Byte) ≠ 4) ∧
    (let s := { txAt 0 with cfg := { Config.defaults with chunkMax := some 9 } }
     s.mode = .transmit ∧ s.loopPhase = .txBranch ∧ s.dlmCnt = 0 ∧ guardFires s = false ∧ s.hostIn = [] ∧
       s.cfg.chunkMax = some 9 ∧ (3 : Byte) ≠ 2 ∧ fillingLen s ≤ s.cfg.cTx) ∧
    (let s := { txAt 0 with loopPhase := .iterStart }
     s.mode = .transmit ∧ s.loopPhase = .iterStart ∧ s.dlmCnt = 0 ∧ guardFires s = false ∧ s.hostIn = [] ∧
       fillingLen s ≤ s.cfg.cTx) := by decide

/-- The premise on CHUNK_MAX of the two Transmit frames: no bound, and the least bound that holds a frame. -/
theorem witness_chunk :
    (∀ k, (txAt 0).cfg.chunkMax = some k → 9 ≤ k) ∧ (∀ k, some 9 = some k → 9 ≤ k) :=
  ⟨fun k h => (nomatch h), fun k h => (by cases h; decide)⟩

/-- EnterReceiveWritesItsRegisters, second clause. -/
theorem witness_enterReceive : Inv smallDrain ∧ smallDrain.mode = .receive := ⟨smallDrain_inv, rfl⟩

/-- GuardFiresStrictlyAfterTheBound: at the bound and one past it. -/
theorem witness_guard :
    (let s := { txAt 0 with now := 200000001 }
     s.guardValid = true ∧ s.cfg.runawayMaxUs < (s.now - s.guardStart).toNat) ∧
    (let s := { txAt 0 with now := 200000000 }
     (s.now - s.guardStart).toNat ≤ s.cfg.runawayMaxUs) ∧ (rxAt 0).guardValid = false := by decide

/-- IterationKicksThenBranches and IterationRunsTheStepOfItsPhase. -/
theorem witness_iteration :
    (rxAt 0).loopPhase = .iterStart ∧
    (let s := { smallTx with now := 151 }
     s.loopPhase = .txBranch ∧ guardFires s = true) ∧
    (smallTx.loopPhase = .txBranch ∧ guardFires smallTx = false ∧ smallTx.mode = .transmit ∧
      fillingLen smallTx ≤ smallTx.cfg.cTx) ∧
    (cmdAt 0 []).loopPhase = .rxCmd ∧ smallDrain.loopPhase = .rxDrain := by decide

/-- TransmitIterationEndsInTwoSteps: one past the bound. -/
theorem witness_transmitIteration :
    Inv smallOverdue ∧ smallOverdue.mode = .transmit ∧ smallOverdue.loopPhase = .iterStart ∧
    smallOverdue.cfg.runawayMaxUs < (smallOverdue.now - smallOverdue.guardStart).toNat := ⟨smallOverdue_inv, by decide⟩

/-- ModeChangesOnlyAsTheStateMachineSays and PhaseFollowsMode: a watchdog reset, a PTT_UP and a PTT_DOWN are steps that
change the mode. -/
theorem witness_modeChanges :
    (Inv smallExpired ∧ PhaseFitsMode smallExpired ∧ smallExpired.mode = .transmit ∧
      after (exec (.envWdtExpire ⟨0, 0⟩) smallExpired) (fun t => t.mode) = some .receive) ∧
    (Inv smallPttUp ∧ PhaseFitsMode smallPttUp ∧ smallPttUp.mode = .transmit ∧
      after (exec (.loopIter ⟨false, false⟩) smallPttUp) (fun t => t.mode) = some .receive) ∧
    (Inv smallPttDown ∧ PhaseFitsMode smallPttDown ∧ smallPttDown.mode = .receive ∧
      after (exec (.loopIter ⟨false, false⟩) smallPttDown) (fun t => t.mode) = some .transmit) ∧
    ownStep (.envWdtExpire ⟨0, 0⟩) = true ∧ ownStep (.loopIter ⟨false, false⟩) = true :=
  ⟨⟨smallExpired_inv, by unfold PhaseFitsMode; decide, rfl, by decide⟩,
    ⟨smallPttUp_inv, by unfold PhaseFitsMode; decide, rfl, by decide⟩,
    ⟨smallPttDown_inv, by unfold PhaseFitsMode; decide, rfl, by decide⟩, rfl, rfl⟩

/-- WatchdogExpiryResets: exactly at the timeout. -/
theorem witness_expiry :
    (let s := { rxAt 0 with now := 300000000 }
     s.cfg.wdtTimeoutUs ≤ (s.now - s.wdtLast).toNat) := by decide

/-- EnvironmentStepsChangeOnlyTheirInput: the least advance, to the last instant, and past it; frames that have to wait. -/
theorem witness_time :
    (1 ≤ (1 : Time).toNat ∧ (rxAt 0xFFFFFFFFFFFFFFFE).now.toNat + (1 : Time).toNat < 2 ^ 64) ∧
    2 ^ 64 ≤ (rxAt 0xFFFFFFFFFFFFFFFE).now.toNat + (2 : Time).toNat ∧
    (cmdAt 0 [0x41]).hostIn ≠ [] ∧ smallDrain.loopPhase = .rxDrain ∧ (txAt 0).loopPhase = .txBranch ∧
    (let s := { txAt 0 with cfg := { Config.defaults with chunkMax := some 8 } }
     s.cfg.chunkMax = some 8 ∧ 8 < 9) ∧
    (let s := { txAt 0 with now := 200000001 }
     guardFires s = true) := by decide

/-- DecodeOfEncodeIsTheInstruction and EncodeOfDecodeIsTheRequest. -/
theorem witness_encoding :
    (Instr.envTime 1).wellFormed = true ∧ (Instr.envTime (-1)).wellFormed = true ∧
    decode ⟨.opid, [0xE0, 0, 0, 0, 0, 0, 0, 0, 0]⟩ = .ok (.envTime 1) := ⟨rfl, rfl, rfl⟩

/-- UnlistedIdsAreRefused and StepRunsTheDecodedLine: quiet states whose first line is unlisted, and listed. -/
theorem witness_script :
    (let s := { rxAt 0 with script := [⟨.opid, [0x02]⟩] }
     watchdogDue s = false ∧ strobeDue s = false ∧
       (0x02 : Byte) ∉ ([0x01, 0x10, 0x11, 0x12, 0x20, 0x30, 0x31, 0x32, 0x33, 0x34, 0x35, 0x40, 0x41, 0x42, 0x43, 0x44,
         0x50, 0x51, 0x52, 0x60, 0x61, 0x70, 0xE0, 0xE1, 0xE2] : List Byte)) ∧
    (let s := { rxAt 0 with script := [⟨.opid, [0x60]⟩] }
     watchdogDue s = false ∧ strobeDue s = false) ∧
    decodeOp [0x60] = .ok .wdtKick := ⟨by decide, by decide, rfl⟩

/-- A script's line that asks for agent L's step. -/
def loopLine : Request := ⟨.opid, [0x61, 0x00]⟩
/-- A script's line that asks for the watchdog's step. -/
def expiryLine : Request := ⟨.opid, [0xE2, 0, 0, 0, 0, 0, 0, 0, 0, 0]⟩
/-- A script's line that asks for the timer's step. -/
def strobeLine : Request := ⟨.opid, [0x01]⟩

theorem loopLine_decodes : decode loopLine = .ok (.loopIter ⟨false, false⟩) := rfl
theorem expiryLine_decodes : decode expiryLine = .ok (.envWdtExpire ⟨0, 0⟩) := rfl
theorem strobeLine_decodes : decode strobeLine = .ok .timerStrobe := rfl

/-- StepTakesTheHighestPriority: each of its cases, with the script empty, asking for that very step, and asking for another. -/
theorem witness_priority :
    (watchdogDue { rxAt 0 with now := 300000000, script := [expiryLine] } = true ∧
      watchdogDue { rxAt 0 with now := 300000000, script := [loopLine] } = true ∧
      decode loopLine ≠ .ok (.envWdtExpire ⟨0, 0⟩)) ∧
    (watchdogDue { rxAt 0 with now := 125, script := [strobeLine] } = false ∧
      strobeDue { rxAt 0 with now := 125, script := [strobeLine] } = true ∧ decode loopLine ≠ .ok .timerStrobe) ∧
    ((rxAt 0).script = [] ∧ watchdogDue (rxAt 0) = false ∧ strobeDue (rxAt 0) = false) := by
  refine ⟨⟨by decide, by decide, ?_⟩, ⟨by decide, by decide, ?_⟩, by decide⟩
  all_goals rw [loopLine_decodes]; decide

/-- R182: a due expiry and a due strobe go before the script's line, which waits. -/
theorem test_step_before_script :
    after (step { rxAt 0 with now := 300000000, script := [loopLine] }) (fun t => (t.wdtLast, t.script)) =
      some (300000000, [loopLine]) ∧
    after (step { rxAt 0 with now := 125, script := [loopLine] }) (fun t => (t.tickPending, t.script)) =
      some (true, [loopLine]) := by decide

/-- EveryStepKeepsTheInvariant, NoStepFaults and TheMachineNeverHalts: a state that meets the invariant, has no script and
takes a step; and one with a script. -/
theorem witness_step :
    (Inv smallExpired ∧ smallExpired.script = [] ∧ ∃ t, step smallExpired = .next t) ∧
    (Inv { smallTx with script := [loopLine] } ∧ ∀ r rest, [loopLine] = r :: rest → ∃ i, decode r = .ok i) :=
  ⟨⟨smallExpired_inv, rfl, _, rfl⟩, { smallTx_inv with }, fun _ _ h => ⟨_, (List.cons.inj h).1 ▸ loopLine_decodes⟩⟩

/-- EveryStepKeepsTimesPast. -/
theorem witness_timesPast : TimesPast smallExpired ∧ ∃ t, step smallExpired = .next t :=
  ⟨⟨by decide, by decide, by decide, by decide⟩, _, rfl⟩

/-- EveryStepKeepsReadableSlotsWritten: three readable slots, and a strobe as the step. -/
theorem witness_readable :
    Inv { smallDrain with now := 300 } ∧ ReadableWritten { smallDrain with now := 300 } ∧
    ∃ t, step { smallDrain with now := 300 } = .next t := by
  refine ⟨{ smallDrain_inv with }, ⟨?_, fun h => (nomatch h), fun h => (nomatch h), fun h => (nomatch h), ?_, ?_⟩, _, rfl⟩
  · unfold written; decide
  · intro i h; exact absurd h (Nat.not_lt_zero i)
  · intro i h; exact absurd h (Nat.not_lt_zero i)

/-- R44 on the four streams: what a kick, a send, a request and a sample leave in the history. -/
theorem test_history_records_streams :
    after (exec (.rxDrain ⟨false, false⟩)
        { smallDrain with drActive := true, drSnap := 2, drN := 2, drI := 2, scratch := [(0, 7), (1, 8)], history := [] })
      (fun t => emissions t.history) = some [.hostOut [7, 8]] ∧
    after (exec .cmdFilters { rxAt 0 with rxcPbuf := [(0, 0x31), (1, 0x30), (2, 0x41)], history := [] }) (fun t => emissions t.history) =
      some [.radio (.filters true false false [0x31, 0x30, 0x41])] ∧
    after (exec .tickTx { playing 1062500 1000 [(499, 4)] with history := [] }) (fun t => emissions t.history) =
      some [.sampleWr 1062500 4] := by decide

/-- StreamsGrowAndParametersStay, AgentsKeepTheAccessMatrix, AgentLNeverWritesThePlayingBuffer: a TICK and a LOOP.ITER
that answer a next state. -/
theorem witness_next :
    (∃ t, exec (.tick (.value 0x10)) { rxAt 0 with tickPending := true } = .next t) ∧
    ∃ t, exec (.loopIter ⟨false, false⟩) (rxAt 0) = .next t := ⟨⟨_, rfl⟩, _, rfl⟩

end Sys2Proof.Tests
end

section
/-! SUPPORT. What an instruction can do to the state, said once: every one is a chain of elementary effects, each a register
transfer that an agent, the timer or the environment makes (10_state.md, R20, R60, R62). A property that every effect keeps is
kept by every instruction and by every step. -/

namespace Sys2Proof.Machine

open Relation (ReflTransGen)

/-! ### The effects -/

/-- Who makes an effect: agent S, agent L, or what stands outside both (the timer, the environment, RESET) (R20). -/
inductive Actor where
  | agentS
  | agentL
  | outside
  deriving DecidableEq

/-- The output streams each actor writes (R21, R44). -/
def Actor.mayEmit : Actor → Emission → Bool
  | .agentS, .sampleWr _ _ => true
  | .agentL, .hostOut _ => true
  | .agentL, .radio _ => true
  | .agentL, .wdtKick _ => true
  | _, _ => false

/-- The filling buffer with bytes appended, before any swap (R116). -/
def appendFilling (bs : List Byte) (s : State) : State :=
  { s with
    txBufA := if s.txFillA then memWriteRun s.txBufA s.txLenA bs else s.txBufA
    txBufB := if s.txFillA then s.txBufB else memWriteRun s.txBufB s.txLenB bs
    txLenA := if s.txFillA then s.txLenA + bs.length else s.txLenA
    txLenB := if s.txFillA then s.txLenB else s.txLenB + bs.length }

/-- One elementary effect of an actor, with the condition under which the rules have it. -/
inductive Effect : Actor → State → State → Prop where
  /-- an operation's history entry -/
  | record {a : Actor} {s : State} (o : OpName) (info : Info) : Effect a s (recordOp o info s)
  /-- an error event -/
  | raise {a : Actor} {s : State} (e : EventCode) (info : Info) : Effect a s (raiseEvent e info s)
  /-- a value handed to a stream of the actor's -/
  | emit {a : Actor} {s : State} (x : Emission) (h : a.mayEmit x = true) : Effect a s (emit x s)
  /-- TICK takes the strobe (R92) -/
  | takeStrobe {s : State} : Effect .agentS s { s with tickPending := false }
  /-- a sample is stored at RX_TAIL (R94) -/
  | storeSample {s : State} (v : Byte) (h : s.rxTail < s.cfg.cRx) :
      Effect .agentS s
        { s with rxBuf := memWrite s.rxBuf s.rxTail v, rxTail := (s.rxTail + 1) % s.cfg.cRx }
  /-- a sample is played (R96) -/
  | driveSample {s : State} (v : Byte) : Effect .agentS s { s with sampleOut := v }
  /-- the kick's time is kept (R158) -/
  | noteKick {s : State} : Effect .agentL s { s with wdtLast := s.now }
  /-- agent L goes to another phase from one in which neither the collector nor a drain is under way (R160) -/
  | goTo {s : State} (p : LoopPhase) (hc : s.loopPhase ≠ .rxCmd) (hd : s.loopPhase = .rxDrain → s.drActive = false) :
      Effect .agentL s { s with loopPhase := p }
  /-- host bytes are consumed (R41) -/
  | readHost {s : State} (n : Nat) : Effect .agentL s (hostDrop n s)
  /-- the collector starts (R127) -/
  | startHeader {s : State} (h : s.loopPhase = .rxCmd) : Effect .agentL s { s with rxcState := .hdr, rxcCnt := 0 }
  /-- a header byte is counted (R128) -/
  | countHeader {s : State} (hs : s.rxcState = .hdr) (h : s.rxcCnt < 8) :
      Effect .agentL s { s with rxcCnt := s.rxcCnt + 1 }
  /-- the ninth byte is kept as the selector (R128) -/
  | keepSelector {s : State} (b : Byte) : Effect .agentL s { s with rxcSel := b, rxcCnt := 0 }
  /-- the parameter wait begins (R129) -/
  | beginParams {s : State} (hs : s.rxcState = .hdr) (h : s.rxcCnt = 0) : Effect .agentL s (beginParams s)
  /-- the parameters are stored (R131) -/
  | storeParams {s : State} (bs : List Byte) (h : bs.length ≤ 17) :
      Effect .agentL s (setArray .rxcPbuf (memWriteRun s.rxcPbuf 0 bs) s)
  /-- the command is complete (R140) -/
  | completeCommand {s : State} (h : s.rxcState ≠ .idle) : Effect .agentL s (completeCommand s)
  /-- MODE.ENTER_TX (R151) -/
  | enterTx {s : State} : Effect .agentL s (enterTx s)
  /-- MODE.ENTER_RX (R153) -/
  | enterRx {s : State} : Effect .agentL s (enterRx s)
  /-- the delimiter count after a chunk (R143) -/
  | countDelim {s : State} (c : Nat) (h : s.dlmCnt ≤ 8 → c ≤ 8) : Effect .agentL s { s with dlmCnt := c }
  /-- bytes are appended and the swap test fails (R116) -/
  | append {s : State} (bs : List Byte) (h : fillingLen s + bs.length < s.cfg.cTx - s.cfg.mTx) :
      Effect .agentL s (appendFilling bs s)
  /-- bytes are appended and the buffers swapped (R116, R119) -/
  | appendSwap {s : State} (bs : List Byte) (h : bs.length ≤ s.cfg.cTx - fillingLen s) :
      Effect .agentL s (swapBuffers (appendFilling bs s))
  /-- TX.SWAP (R118) -/
  | swap {s : State} : Effect .agentL s (swapBuffers s)
  /-- the drain takes its snapshot (R105) -/
  | snapshot {s : State} (h : s.loopPhase = .rxDrain) :
      Effect .agentL s { s with drSnap := s.rxTail, drN := unsentCount s, drI := 0, drActive := true }
  /-- the drain copies a byte (R106) -/
  | copyByte {s : State} (v : Byte) (ha : s.drActive = true) (h : s.drI < s.drN) :
      Effect .agentL s { s with scratch := memWrite s.scratch s.drI v, drI := s.drI + 1 }
  /-- the drain advances RX_HEAD (R108) -/
  | advanceHead {s : State} (ha : s.drActive = true) (h : s.drI = s.drN) : Effect .agentL s { s with rxHead := s.drSnap }
  /-- the copied bytes are silenced (R109) -/
  | silence {s : State} (ha : s.drActive = true) :
      Effect .agentL s (setArray .scratch (memWriteRun s.scratch 0 (List.replicate s.drN s.cfg.silence)) s)
  /-- the drain ends (R110) -/
  | endDrain {s : State} (ha : s.drActive = true) : Effect .agentL s { s with drActive := false, loopPhase := .iterStart }
  /-- the strobe is latched and the timer reloaded (R89) -/
  | latchStrobe {s : State} :
      Effect .outside s
        { s with tickPending := true, tmrNext := s.tmrNext + BitVec.ofNat 64 s.cfg.tickPeriodUs }
  /-- NOW advances (R40) -/
  | advanceNow {s : State} (d : Time) (h : s.now.toNat + d.toNat < 2 ^ 64) : Effect .outside s { s with now := s.now + d }
  /-- a host byte arrives (R41) -/
  | arrive {s : State} (b : Byte) : Effect .outside s (hostAppend b s)
  /-- RESET (R186) -/
  | reset {s : State} (d : ResetDraw) : Effect .outside s (applyReset d s)

/-- A chain of effects of one actor. -/
abbrev Effects (a : Actor) : State → State → Prop := ReflTransGen (Effect a)

/-- A chain of effects of any actors. -/
abbrev AnyEffects : State → State → Prop := ReflTransGen fun s t => ∃ a, Effect a s t

theorem Effects.any {a : Actor} {s t : State} (h : Effects a s t) : AnyEffects s t :=
  ReflTransGen.mono (fun _ _ e => ⟨a, e⟩) s t h

/-- What every effect keeps, a chain keeps. -/
theorem AnyEffects.keeps {P : State → Prop} (hP : ∀ {a s t}, Effect a s t → P s → P t) {s t : State}
    (h : AnyEffects s t) (hs : P s) : P t := by
  induction h with
  | refl => exact hs
  | tail _ e ih =>
    obtain ⟨_, e⟩ := e
    exact hP e ih

/-- A part of the state that no effect of an actor changes, none of its chains changes. -/
theorem Effects.view_eq {α : Type} {a : Actor} {f : State → α} (hf : ∀ {s t}, Effect a s t → f t = f s) {s t : State}
    (h : Effects a s t) : f t = f s := by
  induction h with
  | refl => rfl
  | tail _ e ih => exact (hf e).trans ih

/-! ### Agent S -/

theorem tickRxPath_effects {d : SampleRead} {s t : State} (h : tickRxPath d s = .next t) : Effects .agentS s t := by
  cases d with
  | fault =>
    cases h
    exact (ReflTransGen.single (.record _ _)).tail (.raise _ _)
  | value v =>
    by_cases hi : s.rxTail < s.cfg.cRx
    · cases (tickRxPath_value v hi).symm.trans h
      exact (ReflTransGen.single (.record .tickRx .none)).tail (.storeSample v hi)
    · rw [tickRxPath_value_ge v (Nat.not_lt.mp hi)] at h
      cases h

theorem tickTxPath_effects {s t : State} (h : tickTxPath s = .next t) : Effects .agentS s t := by
  rw [tickTxPath_unfold] at h
  split at h
  · split at h
    next v _ =>
      cases h
      exact ((ReflTransGen.single (.record .tickTx .none)).tail (.driveSample v)).tail (.emit _ rfl)
    · cases h
  · cases h
    exact .single (.record _ _)

theorem execTick_effects {d : SampleRead} {s t : State} (h : execTick d s = .next t) : Effects .agentS s t := by
  unfold execTick at h
  split at h
  · have taken : Effects .agentS s { recordOp .tick .none s with tickPending := false } :=
      (ReflTransGen.single (.record .tick .none)).tail .takeStrobe
    dsimp only at h
    split at h
    · exact taken.trans (tickRxPath_effects h)
    · exact taken.trans (tickTxPath_effects h)
  · cases h; exact .refl

theorem execTickRx_effects {d : SampleRead} {s t : State} (h : execTickRx d s = .next t) : Effects .agentS s t := by
  unfold execTickRx at h
  split at h
  · exact tickRxPath_effects h
  · cases h; exact .refl

theorem execTickTx_effects {s t : State} (h : execTickTx s = .next t) : Effects .agentS s t := by
  unfold execTickTx at h
  split at h
  · cases h; exact .refl
  · exact tickTxPath_effects h

/-! ### Ingestion -/

/-- The append is TX.INGEST's writes and the new length (R116). -/
theorem appendFilling_eq (bs : List Byte) (s : State) :
    setFillingLen (fillingLen s + bs.length)
      (setArray (fillingBuffer s) (memWriteRun (getArray s (fillingBuffer s)) (fillingLen s) bs) s) =
      appendFilling bs s := by
  cases hf : s.txFillA <;>
    simp only [appendFilling, fillingBuffer, fillingLen, setFillingLen, setArray_txFillA, hf, if_true, Bool.false_eq_true,
      if_false] <;>
    rfl

@[simp] theorem fillingLen_appendFilling (bs : List Byte) (s : State) :
    fillingLen (appendFilling bs s) = fillingLen s + bs.length := by
  cases hf : s.txFillA <;> simp [appendFilling, fillingLen, hf]

@[simp] theorem appendFilling_cfg (bs : List Byte) (s : State) : (appendFilling bs s).cfg = s.cfg := rfl

@[simp] theorem appendFilling_loopPhase (bs : List Byte) (s : State) : (appendFilling bs s).loopPhase = s.loopPhase := rfl

/-- E_TX_DROP where bytes were dropped (R116, R117). -/
def noteDrop (n : Nat) (s : State) : State := if 0 < n then raiseEvent .txDrop (.count n) s else s

@[simp] theorem noteDrop_cfg (n : Nat) (s : State) : (noteDrop n s).cfg = s.cfg := by unfold noteDrop; split <;> rfl

@[simp] theorem noteDrop_loopPhase (n : Nat) (s : State) : (noteDrop n s).loopPhase = s.loopPhase := by
  unfold noteDrop; split <;> rfl

@[simp] theorem fillingLen_noteDrop (n : Nat) (s : State) : fillingLen (noteDrop n s) = fillingLen s := by
  unfold noteDrop; split <;> rfl

theorem noteDrop_effects (n : Nat) (s : State) : Effects .agentL s (noteDrop n s) := by
  unfold noteDrop
  split
  · exact .single (.raise _ _)
  · exact .refl

/-- The swap test and the swap (R116, R119). -/
def swapIfDue (s : State) : State := if swapDue s then swapBuffers s else s

@[simp] theorem swapIfDue_loopPhase (s : State) : (swapIfDue s).loopPhase = s.loopPhase := by
  unfold swapIfDue; split <;> rfl

/-- How many bytes of a payload fit (R116). -/
def keptBytes (p : List Byte) (s : State) : Nat := min p.length (s.cfg.cTx - fillingLen s)

theorem length_take_keptBytes (p : List Byte) (s : State) : (p.take (keptBytes p s)).length = keptBytes p s := by
  simp [keptBytes]

/-- The end of TX.INGEST in the order of the effects: the drop event, the append, the swap. -/
theorem ingestDone_eq (dropped : Nat) (bs : List Byte) (s : State) :
    ingestDone (fillingLen s) bs.length dropped
        (setArray (fillingBuffer s) (memWriteRun (getArray s (fillingBuffer s)) (fillingLen s) bs) s) =
      swapIfDue (appendFilling bs (noteDrop dropped s)) := by
  unfold ingestDone noteDrop
  rw [appendFilling_eq]
  split <;> rfl

/-- The bytes kept never pass the end of the filling buffer, so their writes succeed (R116). -/
theorem writeSlots_keptBytes (p : List Byte) (s : State) :
    writeSlots (fillingBuffer s) (fillingLen s) (p.take (keptBytes p s)) s =
      .next (setArray (fillingBuffer s)
        (memWriteRun (getArray s (fillingBuffer s)) (fillingLen s) (p.take (keptBytes p s))) s) := by
  by_cases h : fillingLen s ≤ s.cfg.cTx
  · apply writeSlots_of_le
    rw [length_take_keptBytes, fillingBuffer_capacity]
    exact ingest_kept_le h
  · have hk : keptBytes p s = 0 := by unfold keptBytes; omega
    simp [hk, writeSlots, memWriteRun]

/-- TX.INGEST always completes (R116). -/
theorem ingest_eq (p : List Byte) (s : State) :
    ingest p s = .next (swapIfDue (appendFilling (p.take (keptBytes p s))
      (noteDrop (p.length - keptBytes p s) (recordOp .txIngest (.count p.length) s)))) := by
  rw [← ingestDone_eq, length_take_keptBytes]
  exact congrArg
    (andThen · fun u => .next (ingestDone (fillingLen s) (keptBytes p s) (p.length - keptBytes p s) u))
    (writeSlots_keptBytes p (recordOp .txIngest (.count p.length) s))

/-- Bytes that fit, with the swap test behind them. -/
theorem appendFilling_effect {bs : List Byte} {s : State} (h : bs.length ≤ s.cfg.cTx - fillingLen s) :
    Effect .agentL s (swapIfDue (appendFilling bs s)) := by
  unfold swapIfDue
  split
  · exact .appendSwap bs h
  next hd =>
    have hd : ¬ s.cfg.cTx - s.cfg.mTx ≤ fillingLen s + bs.length := by
      simpa only [swapDue, fillingLen_appendFilling, appendFilling_cfg, decide_eq_true_eq] using hd
    exact .append bs (Nat.lt_of_not_le hd)

/-- TX.INGEST is a chain of effects, and the phase stays. -/
theorem ingest_effects {p : List Byte} {s t : State} (h : ingest p s = .next t) :
    Effects .agentL s t ∧ t.loopPhase = s.loopPhase := by
  cases (ingest_eq p s).symm.trans h
  refine ⟨((ReflTransGen.single (.record _ _)).trans (noteDrop_effects _ _)).tail (appendFilling_effect ?_), by simp⟩
  rw [length_take_keptBytes, noteDrop_cfg, fillingLen_noteDrop]
  exact Nat.min_le_right _ _

/-! ### The scan -/

theorem pttUp_effects (s : State) : Effects .agentL s (pttUp s) :=
  (ReflTransGen.single (.record _ _)).tail .enterRx

theorem scanFinish_effects {r : ScanResult} {s t : State} (h : scanFinish r s = .next t) :
    Effects .agentL s t ∧ t.loopPhase = s.loopPhase := by
  unfold scanFinish at h
  split at h
  · cases h; exact ⟨pttUp_effects s, by simp [pttUp]⟩
  · split at h
    · cases h; exact ⟨.refl, rfl⟩
    · exact ingest_effects h

theorem ignored_effects (ig : List Byte) (s : State) :
    Effects .agentL s (ig.foldl (fun s b => ignoreInTransmit b s) s) := by
  induction ig generalizing s with
  | nil => exact .refl
  | cons b ig ih => exact .head (.record .cmdTxIgnore (.byte b)) (ih _)

theorem scanChunk_effects {c : List Byte} {s t : State} (hp : s.loopPhase = .txBranch)
    (h : scanChunk c s = .next t) : Effects .agentL s t := by
  unfold scanChunk at h
  obtain ⟨u, hu, ht⟩ := andThen_eq_next.mp h
  obtain ⟨hfin, hphase⟩ := scanFinish_effects hu
  have hphase : u.loopPhase = .txBranch := by rw [hphase, ignored_foldl]; exact hp
  cases ht
  refine (((ReflTransGen.single (.countDelim _ fun h8 => scanBytes_dlmCnt_le h8 c)).trans
    (ignored_effects _ _)).trans hfin).tail (.goTo _ ?_ ?_) <;> simp [hphase]

theorem scan_effects {s t : State} (hp : s.loopPhase = .txBranch) (h : scan s = .next t) : Effects .agentL s t := by
  unfold scan at h
  have recorded : Effects .agentL s (recordOp .txScan (.count (chunkLen s)) s) := .single (.record _ _)
  dsimp only at h
  split at h
  · cases h
    exact recorded.tail (.goTo _ (by simp [hp]) (by simp [hp]))
  · exact (recorded.tail (.readHost _)).trans (scanChunk_effects (by simpa using hp) h)

theorem execTxScan_effects {s t : State} (h : execTxScan s = .next t) : Effects .agentL s t := by
  unfold execTxScan at h
  split at h
  next he => exact scan_effects (by simp_all [scanEnabled]) h
  · cases h; exact .refl

/-! ### The collector -/

theorem pttDown_effects (s : State) : Effects .agentL s (pttDown s) :=
  (ReflTransGen.single (.record _ _)).tail .enterTx

/-- CMD.TUNE_TO and CMD.FILTERS are chains of effects, and the collector's state stays. -/
theorem tuneTo_effects {s t : State} (h : tuneTo s = .next t) : Effects .agentL s t ∧ t.rxcState = s.rxcState := by
  cases (tuneTo_eq s).symm.trans h
  exact ⟨((ReflTransGen.single (.record _ _)).tail .enterRx).tail (.emit _ rfl), by simp⟩

theorem setFilters_effects {s t : State} (h : setFilters s = .next t) :
    Effects .agentL s t ∧ t.rxcState = s.rxcState := by
  cases (setFilters_eq s).symm.trans h
  exact ⟨(ReflTransGen.single (.record _ _)).tail (.emit _ rfl), by simp⟩

theorem runParamCommand_effects {s t : State} (h : runParamCommand s = .next t) :
    Effects .agentL s t ∧ t.rxcState = s.rxcState := by
  unfold runParamCommand at h
  split at h
  · exact tuneTo_effects h
  · exact setFilters_effects h

theorem abandon_effects (s : State) : Effects .agentL s (abandon s) :=
  ((ReflTransGen.single (.record _ _)).tail (.readHost _)).tail (.raise _ _)

theorem paramStep_effects {s t : State} (hs : s.rxcState = .param) (h : paramStep s = .next t) :
    Effects .agentL s t := by
  by_cases ha : paramsAvailable s = true
  · rw [paramStep_available ha] at h
    obtain ⟨u, hu, ht⟩ := andThen_eq_next.mp h
    obtain ⟨hrun, hstate⟩ := runParamCommand_effects hu
    cases ht
    have hfit : (s.hostIn.take (paramsWanted s)).length ≤ 17 := (List.length_take_le _ _).trans (paramsWanted_le s)
    have taken : Effects .agentL s (hostDrop (paramsWanted s) (recordOp .rxCmd .none s)) :=
      (ReflTransGen.single (.record _ _)).tail (.readHost _)
    exact ((taken.tail (.storeParams _ hfit)).trans hrun).tail (.completeCommand (by simp [hstate, hs]))
  · unfold paramStep at h
    rw [if_neg ha] at h
    split at h
    · cases h
      refine ((ReflTransGen.single (.record _ _)).trans (abandon_effects _)).tail (.completeCommand ?_)
      simp [abandon, hs]
    · cases h; exact .refl

theorem dispatchSelector_effects {s : State} (hs : s.rxcState = .hdr) (hc : s.rxcCnt = 0) :
    Effects .agentL s (dispatchSelector s) := by
  unfold dispatchSelector
  split
  · exact (pttDown_effects s).tail (.completeCommand (by simp [pttDown, hs]))
  · exact .single (.beginParams hs hc)
  · exact .single (.beginParams hs hc)
  · exact (ReflTransGen.single (.record _ _)).tail (.completeCommand (by simp [ignoreCommand, hs]))

theorem headerByte_effects {s : State} (hs : s.rxcState = .hdr) : Effects .agentL s (headerByte s) := by
  unfold headerByte
  split
  · exact .refl
  next b _ _ =>
    have taken : Effects .agentL s (hostDrop 1 (recordOp .rxCmd .none s)) :=
      (ReflTransGen.single (.record _ _)).tail (.readHost _)
    dsimp only
    split
    next h => exact taken.tail (.countHeader hs h)
    · exact (taken.tail (.keepSelector b)).trans (dispatchSelector_effects hs rfl)

theorem collectorStep_effects {s t : State} (h : collectorStep s = .next t) : Effects .agentL s t := by
  unfold collectorStep at h
  split at h
  · split at h
    next hp => cases h; exact (ReflTransGen.single (.record .rxCmd .none)).tail (.startHeader hp)
    · cases h; exact .refl
  next hs => cases h; exact headerByte_effects hs
  next hs => exact paramStep_effects hs h

/-! ### The commands on their own -/

theorem execCmdPttDown_effects {s t : State} (h : execCmdPttDown s = .next t) : Effects .agentL s t := by
  unfold execCmdPttDown at h
  split at h <;> cases h
  · exact pttDown_effects s
  · exact .single (.record _ _)

theorem execCmdTuneTo_effects {s t : State} (h : execCmdTuneTo s = .next t) : Effects .agentL s t := by
  unfold execCmdTuneTo at h
  split at h
  · split at h
    · exact (tuneTo_effects h).1
    · cases h; exact .refl
  · cases h; exact .single (.record _ _)

theorem execCmdFilters_effects {s t : State} (h : execCmdFilters s = .next t) : Effects .agentL s t := by
  unfold execCmdFilters at h
  split at h
  · split at h
    · exact (setFilters_effects h).1
    · cases h; exact .refl
  · cases h; exact .single (.record _ _)

theorem execCmdAbandon_effects {s t : State} (h : execCmdAbandon s = .next t) : Effects .agentL s t := by
  unfold execCmdAbandon at h
  split at h <;> cases h
  · exact abandon_effects s
  · exact .refl

theorem execCmdPttUp_effects {s t : State} (h : execCmdPttUp s = .next t) : Effects .agentL s t := by
  unfold execCmdPttUp at h
  split at h <;> cases h
  · exact .single (.record _ _)
  · exact pttUp_effects s

/-! ### The drain -/

theorem drainStart_effects {s : State} (hp : s.loopPhase = .rxDrain) (ha : s.drActive = false) :
    Effects .agentL s (drainStart s) := by
  have recorded : Effects .agentL s (recordOp .rxDrain .none s) := .single (.record _ _)
  unfold drainStart
  dsimp only
  split
  · exact recorded.tail (.goTo _ (by simp [hp]) (fun _ => ha))
  · exact recorded.tail (.snapshot hp)

theorem drainCopy_effects {s t : State} (ha : s.drActive = true) (hi : s.drI < s.drN) (h : drainCopy s = .next t) :
    Effects .agentL s t := by
  unfold drainCopy at h
  dsimp only at h
  split at h
  next v _ =>
    obtain ⟨u, hu, ht⟩ := andThen_eq_next.mp h
    obtain ⟨-, rfl⟩ := writeSlot_eq_next.mp hu
    cases ht
    exact (ReflTransGen.single (.record .rxDrain .none)).tail (.copyByte (s := recordOp .rxDrain .none s) v ha hi)
  · cases h

theorem headWrite_effects {s : State} (ha : s.drActive = true) (hi : s.drI = s.drN) :
    Effects .agentL s (headWrite s) :=
  (ReflTransGen.single (.record .rxDrain .none)).tail (.advanceHead ha hi)

theorem squelchGate_effects {q : Bool} {s t : State} (ha : s.drActive = true) (h : squelchGate q s = .next t) :
    Effects .agentL s t ∧ t.drActive = true := by
  unfold squelchGate at h
  split at h
  · rw [writeSlots_eq_next h]
    exact ⟨.single (.silence ha), ha⟩
  · cases h; exact ⟨.refl, ha⟩

theorem drainSend_effects {s t : State} (ha : s.drActive = true) (h : drainSend s = .next t) :
    Effects .agentL s t := by
  unfold drainSend at h
  split at h <;> cases h
  exact (ReflTransGen.single (.emit _ rfl)).tail (.endDrain ha)

theorem drainCommit_effects {q : Bool} {s t : State} (ha : s.drActive = true) (hi : s.drI = s.drN)
    (h : drainCommit q s = .next t) : Effects .agentL s t := by
  unfold drainCommit at h
  obtain ⟨u, hu, ht⟩ := andThen_eq_next.mp h
  obtain ⟨hgate, ha'⟩ := squelchGate_effects (s := headWrite s) ha hu
  exact ((headWrite_effects ha hi).trans hgate).trans (drainSend_effects ha' ht)

theorem drainStep_effects {q : DrainDraw} {s t : State} (h : drainStep q s = .next t) : Effects .agentL s t := by
  unfold drainStep at h
  split at h
  next ha =>
    split at h
    next hi => exact drainCopy_effects ha hi h
    · split at h
      next hi =>
        split at h
        · cases h; exact headWrite_effects ha hi
        · exact drainCommit_effects ha hi h
      · cases h; exact .refl
  next ha =>
    split at h
    next hd =>
      cases h
      exact drainStart_effects (by simp_all [drainStartEnabled]) (by simpa using ha)
    · cases h; exact .refl

/-! ### The loop -/

theorem checkGuard_effects (s : State) : Effects .agentL s (checkGuard s) := by
  unfold checkGuard
  dsimp only
  split
  · exact ((ReflTransGen.single (.record _ _)).tail (.raise _ _)).tail .enterRx
  · exact .single (.record _ _)

theorem checkGuard_loopPhase (s : State) : (checkGuard s).loopPhase = s.loopPhase := by
  unfold checkGuard
  dsimp only
  split <;> rfl

theorem kickWatchdog_effects (s : State) : Effects .agentL s (kickWatchdog s) :=
  ((ReflTransGen.single (.record .wdtKick .none)).tail .noteKick).tail (.emit (.wdtKick s.now) rfl)

theorem iterStart_effects {s : State} (hp : s.loopPhase = .iterStart) : Effects .agentL s (iterStart s) :=
  ((ReflTransGen.single (.record .loopIter .none)).trans (kickWatchdog_effects _)).tail
    (.goTo _ (by simp [hp]) (by simp [hp]))

theorem txBranch_effects {s t : State} (hp : s.loopPhase = .txBranch) (h : txBranch s = .next t) :
    Effects .agentL s t := by
  have hp' : (checkGuard s).loopPhase = .txBranch := (checkGuard_loopPhase s).trans hp
  unfold txBranch at h
  split at h
  · cases h
    exact (checkGuard_effects s).tail (.goTo _ (by simp [hp']) (by simp [hp']))
  · split at h
    · exact (checkGuard_effects s).trans (scan_effects hp' h)
    · cases h; exact .refl

/-- Agent L's step is a chain of effects of agent L (R160). -/
theorem agentLStep_effects {q : DrainDraw} {s t : State} (h : agentLStep q s = .next t) : Effects .agentL s t := by
  unfold agentLStep at h
  split at h
  next hp => cases h; exact iterStart_effects hp
  next hp => exact txBranch_effects hp h
  · exact collectorStep_effects h
  · exact drainStep_effects h

/-! ### Timer and environment -/

theorem execTimerStrobe_effects {s t : State} (h : execTimerStrobe s = .next t) : Effects .outside s t := by
  have recorded : Effects .outside s (recordOp .timerStrobe .none s) := .single (.record _ _)
  unfold execTimerStrobe at h
  split at h <;> cases h
  · split
    · exact (recorded.tail (.raise _ _)).tail .latchStrobe
    · exact recorded.tail .latchStrobe
  · exact .refl

theorem execEnvTime_effects {d : Time} {s t : State} (h : execEnvTime d s = .next t) : Effects .outside s t := by
  unfold execEnvTime at h
  split at h
  next hd => cases h; exact (ReflTransGen.single (.record .envTime (.time d))).tail (.advanceNow d hd.2)
  · cases h; exact .refl

theorem execEnvWdtExpire_effects {d : ResetDraw} {s t : State} (h : execEnvWdtExpire d s = .next t) :
    Effects .outside s t := by
  unfold execEnvWdtExpire at h
  split at h <;> cases h
  · exact ((ReflTransGen.single (.record _ _)).tail (.raise _ _)).tail (.reset d)
  · exact .refl

/-! ### Frames -/

theorem hostAppendAll_effects (bs : List Byte) (s : State) : Effects .outside s (hostAppendAll bs s) := by
  induction bs generalizing s with
  | nil => exact .refl
  | cons b bs ih => exact .head (.arrive b) (ih _)

theorem agentLSteps_effects {n : Nat} {s t : State} (h : agentLSteps n s = .next t) : Effects .agentL s t := by
  induction n generalizing s with
  | zero => cases h; exact .refl
  | succ n ih =>
    obtain ⟨u, hu, ht⟩ := andThen_eq_next.mp h
    exact (agentLStep_effects hu).trans (ih ht)

theorem takeReceiveFrame_effects {r : Request} {n : Nat} {s t : State} (h : takeReceiveFrame r n s = .next t) :
    AnyEffects s t := by
  have arrived := (hostAppendAll_effects r.bytes s).any
  unfold takeReceiveFrame at h
  dsimp only at h
  split at h
  · exact arrived.trans (agentLSteps_effects h).any
  · cases h; exact arrived

theorem takeTransmitFrame_effects {r : Request} {s t : State} (h : takeTransmitFrame r s = .next t) :
    AnyEffects s t := by
  have arrived := (hostAppendAll_effects r.bytes s).any
  unfold takeTransmitFrame at h
  dsimp only at h
  split at h
  · exact arrived.trans (agentLSteps_effects h).any
  · cases h; exact arrived

/-! ### Every instruction and every step -/

/-- Whatever an instruction does is a chain of effects. -/
theorem exec_effects {i : Instr} {s t : State} (h : exec i s = .next t) : AnyEffects s t := by
  cases i with
  | timerStrobe => exact (execTimerStrobe_effects h).any
  | tick d => exact (execTick_effects h).any
  | tickRx d => exact (execTickRx_effects h).any
  | tickTx => exact (execTickTx_effects h).any
  | rxDrain q => exact (drainStep_effects h).any
  | rxCmd => exact (collectorStep_effects h).any
  | cmdPttDown => exact (execCmdPttDown_effects h).any
  | cmdTuneTo => exact (execCmdTuneTo_effects h).any
  | cmdFilters => exact (execCmdFilters_effects h).any
  | cmdIgnore => cases h; exact .single ⟨.agentL, .record _ _⟩
  | cmdAbandon => exact (execCmdAbandon_effects h).any
  | txScan => exact (execTxScan_effects h).any
  | txIngest p => exact (ingest_effects h).1.any
  | txSwap => cases h; exact .single ⟨_, .swap⟩
  | cmdPttUp => exact (execCmdPttUp_effects h).any
  | cmdTxIgnore b => cases h; exact .single ⟨.agentL, .record _ _⟩
  | modeEnterTx => cases h; exact .single ⟨_, .enterTx⟩
  | modeEnterRx => cases h; exact .single ⟨_, .enterRx⟩
  | guardCheck => cases h; exact (checkGuard_effects s).any
  | wdtKick => cases h; exact (kickWatchdog_effects s).any
  | loopIter q => exact (agentLStep_effects h).any
  | reset d => cases h; exact .single ⟨_, .reset d⟩
  | envTime d => exact (execEnvTime_effects h).any
  | envHostByte b => cases h; exact .single ⟨_, .arrive b⟩
  | envWdtExpire d => exact (execEnvWdtExpire_effects h).any
  | framePttDown pre => exact takeReceiveFrame_effects h
  | frameTuneTo pre p => exact takeReceiveFrame_effects h
  | frameFilters pre p => exact takeReceiveFrame_effects h
  | frameIgnore pre sel => exact takeReceiveFrame_effects h
  | framePttUp => exact takeTransmitFrame_effects h
  | frameTxIgnore sel => exact takeTransmitFrame_effects h

/-- What every effect keeps, and the draw counter and the script have no part in, every step keeps. -/
theorem step_keeps {P : State → Prop} (hP : ∀ {a s t}, Effect a s t → P s → P t) (hdraw : ∀ {s}, P s → P (nextDraw s))
    (hpop : ∀ {s}, P s → P (popScript s)) {s t : State} (hs : P s) (h : step s = .next t) : P t := by
  obtain ⟨i, u, hfrom, hexec⟩ := step_cases h
  refine (exec_effects hexec).keeps hP ?_
  cases hfrom with
  | same => exact hs
  | drawn => exact hdraw hs
  | popped => exact hpop hs

end Sys2Proof.Machine
end

section
/-! SUPPORT. The invariants of the machine (R48, R49, R98) and the whole-machine rules (R21, R40, R44, R183): each is kept by
every effect, so by every instruction and every step. -/

namespace Sys2Proof.Machine

/-! ### Canonical arrays -/

theorem ArraysWf.set {s : State} {b : ArrayName} {m : Mem} (h : ArraysWf s) (hm : memWf (capacity s.cfg b) m = true) :
    ArraysWf (setArray b m s) := by
  intro a
  rw [getArray_setArray, setArray_cfg]
  split
  next hab => rwa [← hab]
  · exact h a

theorem arraysWf_applyReset (d : ResetDraw) (s : State) : ArraysWf (applyReset d s) := by
  intro a
  cases a <;> rfl

/-! ### Cursors modulo C_RX -/

/-- A cursor is the other one advanced by their distance (R15). -/
theorem add_subMod {a b n : Nat} (ha : a < n) (hb : b < n) : (b + subMod a b n) % n = a := by
  rw [subMod, Nat.mod_eq_of_lt hb, Nat.add_mod_mod, show b + (a + (n - b)) = a + n by omega, Nat.add_mod_right,
    Nat.mod_eq_of_lt ha]

theorem subMod_self (a n : Nat) (ha : a < n) : subMod a a n = 0 := by
  rw [subMod, Nat.mod_eq_of_lt ha, Nat.add_sub_cancel' ha.le, Nat.mod_self]

/-- Advancing a cursor by one slot adds one to its distance, modulo the size. -/
theorem subMod_succ (a b n : Nat) : subMod ((a + 1) % n) b n = (subMod a b n + 1) % n := by
  simp only [subMod, Nat.mod_add_mod]
  congr 1
  omega

/-- What holds of a window and of the slot behind it holds of the window that includes that slot. -/
theorem window_extend {P : Nat → Prop} {a b n : Nat} (ha : a < n) (hb : b < n)
    (hP : ∀ k, k < subMod a b n → P ((b + k) % n)) (hend : P a) :
    ∀ k, k < subMod ((a + 1) % n) b n → P ((b + k) % n) := by
  intro k hk
  rw [subMod_succ] at hk
  have hk' : k < subMod a b n + 1 := hk.trans_le (Nat.mod_le _ _)
  rcases Nat.lt_succ_iff_lt_or_eq.mp hk' with h | rfl
  · exact hP k h
  · rwa [add_subMod ha hb]

/-! ### The register invariants (R48) -/

theorem fillingLen_swapBuffers (s : State) : fillingLen (swapBuffers s) = 0 := by
  cases hf : s.txFillA <;> simp [fillingLen, hf]

theorem swapBuffers_lengths_le {s : State} {n : Nat} (hA : s.txLenA ≤ n) (hB : s.txLenB ≤ n) :
    (swapBuffers s).txLenA ≤ n ∧ (swapBuffers s).txLenB ≤ n := by
  cases hf : s.txFillA <;> simp [hf, hA, hB]

/-- A valid choice of parameters leaves room in the filling buffer (00_scope.md section 3). -/
theorem Inv.room {s : State} (h : Inv s) : 0 < s.cfg.cTx - s.cfg.mTx := by
  have := h.filling_lt
  omega

theorem Inv.cRx_pos {s : State} (h : Inv s) : 0 < s.cfg.cRx := by
  have := h.rxHead_lt
  omega

/-- A drain in flight has its snapshot inside RXBUF (R48). -/
theorem Inv.drSnap_lt {s : State} (h : Inv s) (ha : s.drActive = true) : s.drSnap < s.cfg.cRx := by
  obtain ⟨-, -, -, hs, -⟩ := h.draining ha
  exact hs

theorem Inv.not_draining {s : State} (h : Inv s) (hp : s.loopPhase ≠ .rxDrain) : s.drActive = false :=
  Bool.eq_false_iff.mpr fun ha => hp (h.draining ha).1

theorem Inv.not_collecting {s : State} (h : Inv s) (hp : s.loopPhase ≠ .rxCmd) : s.rxcState = .idle := by
  by_contra hs
  exact hp (h.collecting hs)

/-- The lengths and arrays after an append that fits. -/
theorem Inv.appendFilling_fits {s : State} (h : Inv s) {bs : List Byte} (hb : bs.length ≤ s.cfg.cTx - fillingLen s) :
    (appendFilling bs s).txLenA ≤ s.cfg.cTx ∧ (appendFilling bs s).txLenB ≤ s.cfg.cTx ∧
      ArraysWf (appendFilling bs s) := by
  have hA := h.txLenA_le
  have hB := h.txLenB_le
  cases hf : s.txFillA <;> simp only [appendFilling, fillingLen, hf, if_true, Bool.false_eq_true, if_false] at hb ⊢
  · refine ⟨hA, by omega, h.arrays.set (b := .txBufB) (memWf_memWriteRun ?_ (h.arrays .txBufB))⟩
    simp only [capacity]
    omega
  · refine ⟨by omega, hB, h.arrays.set (b := .txBufA) (memWf_memWriteRun ?_ (h.arrays .txBufA))⟩
    simp only [capacity]
    omega

theorem Inv.swapBuffers {s : State} (h : Inv s) : Inv (swapBuffers s) := by
  obtain ⟨hA, hB⟩ := swapBuffers_lengths_le h.txLenA_le h.txLenB_le
  exact { h with
    txLenA_le := hA
    txLenB_le := hB
    filling_lt := by rw [fillingLen_swapBuffers]; exact h.room }

theorem Inv.append {s : State} (h : Inv s) {bs : List Byte} (hb : fillingLen s + bs.length < s.cfg.cTx - s.cfg.mTx) :
    Inv (appendFilling bs s) := by
  obtain ⟨hA, hB, hw⟩ := h.appendFilling_fits (bs := bs) (by omega)
  exact { h with
    txLenA_le := hA
    txLenB_le := hB
    filling_lt := by rw [fillingLen_appendFilling]; exact hb
    arrays := hw }

theorem Inv.appendSwap {s : State} (h : Inv s) {bs : List Byte} (hb : bs.length ≤ s.cfg.cTx - fillingLen s) :
    Inv (Machine.swapBuffers (appendFilling bs s)) := by
  obtain ⟨hA, hB, hw⟩ := h.appendFilling_fits hb
  obtain ⟨hA, hB⟩ := swapBuffers_lengths_le hA hB
  exact { h with
    txLenA_le := hA
    txLenB_le := hB
    filling_lt := by rw [fillingLen_swapBuffers]; exact h.room
    arrays := hw }

theorem Inv.enterTx {s : State} (h : Inv s) : Inv (enterTx s) :=
  { h with
    txLenA_le := Nat.zero_le _
    txLenB_le := Nat.zero_le _
    filling_lt := h.room
    dlmCnt_le := Nat.zero_le _
    guard_iff := by simp
    guardStart_zero := by simp
    txEn_iff := by simp }

theorem Inv.enterRx {s : State} (h : Inv s) : Inv (enterRx s) :=
  { h with
    guard_iff := by simp
    guardStart_zero := by simp
    txEn_iff := by simp }

theorem Inv.applyReset {s : State} (h : Inv s) (d : ResetDraw) : Inv (applyReset d s) where
  cfgValid := h.cfgValid
  rxHead_lt := h.cRx_pos
  rxTail_lt := h.cRx_pos
  txLenA_le := Nat.zero_le _
  txLenB_le := Nat.zero_le _
  filling_lt := h.room
  dlmCnt_le := Nat.zero_le _
  rxcCnt_le := Nat.zero_le _
  rxcCnt_zero := fun _ => rfl
  guard_iff := by simp
  guardStart_zero := fun _ => rfl
  txEn_iff := by simp
  collecting := by simp
  draining := by simp
  arrays := arraysWf_applyReset d s

/-- The drain's snapshot is the tail, which the unsent window reaches (R105). -/
theorem Inv.snapshot {s : State} (h : Inv s) (hp : s.loopPhase = .rxDrain) :
    Inv { s with drSnap := s.rxTail, drN := unsentCount s, drI := 0, drActive := true } :=
  { h with
    draining := fun _ =>
      ⟨hp, Nat.zero_le _, subMod_lt h.cRx_pos, h.rxTail_lt, .inl (add_subMod h.rxTail_lt h.rxHead_lt)⟩ }

/-- A copy step stays inside SCRATCH (R106). -/
theorem Inv.copyByte {s : State} (h : Inv s) (v : Byte) (ha : s.drActive = true) (hi : s.drI < s.drN) :
    Inv { s with scratch := memWrite s.scratch s.drI v, drI := s.drI + 1 } := by
  obtain ⟨hp, -, hn, hs, hw⟩ := h.draining ha
  refine { h with draining := fun _ => ⟨hp, hi, hn, hs, ?_⟩, arrays := ?_ }
  · exact .inl (hw.resolve_right fun hdone => hi.ne hdone.1)
  · exact h.arrays.set (b := .scratch) (memWf_memWrite v (by simp only [capacity]; omega) (h.arrays .scratch))

theorem Inv.advanceHead {s : State} (h : Inv s) (ha : s.drActive = true) (hi : s.drI = s.drN) :
    Inv { s with rxHead := s.drSnap } := by
  obtain ⟨hp, hle, hn, hs, -⟩ := h.draining ha
  exact { h with rxHead_lt := hs, draining := fun _ => ⟨hp, hle, hn, hs, .inr ⟨hi, rfl⟩⟩ }

theorem Inv.silence {s : State} (h : Inv s) (ha : s.drActive = true) :
    Inv (setArray .scratch (memWriteRun s.scratch 0 (List.replicate s.drN s.cfg.silence)) s) := by
  obtain ⟨-, -, hn, -⟩ := h.draining ha
  exact { h with
    arrays := h.arrays.set (memWf_memWriteRun (by simp only [capacity, List.length_replicate]; omega) (h.arrays .scratch)) }

/-- Every effect keeps the invariant (R48). -/
theorem Effect.keeps_inv {a : Actor} {s t : State} (e : Effect a s t) (h : Inv s) : Inv t := by
  cases e with
  | record | raise | takeStrobe | driveSample | noteKick | readHost | latchStrobe | advanceNow | arrive => exact { h with }
  | emit x => cases x <;> exact { h with }
  | storeSample v hv =>
    exact { h with
      rxTail_lt := Nat.mod_lt _ h.cRx_pos
      arrays := h.arrays.set (b := .rxBuf) (memWf_memWrite v hv (h.arrays .rxBuf)) }
  | goTo p hc hd =>
    have ha : s.drActive = false := by
      by_cases hp : s.loopPhase = .rxDrain
      · exact hd hp
      · exact h.not_draining hp
    exact { h with
      collecting := fun hs => absurd (h.not_collecting hc) hs
      draining := fun ha' => absurd (ha.symm.trans ha') Bool.false_ne_true }
  | startHeader hp =>
    exact { h with rxcCnt_le := Nat.zero_le _, rxcCnt_zero := fun _ => rfl, collecting := fun _ => hp }
  | countHeader hs hc => exact { h with rxcCnt_le := hc, rxcCnt_zero := fun hs' => absurd hs hs' }
  | keepSelector b => exact { h with rxcCnt_le := Nat.zero_le _, rxcCnt_zero := fun _ => rfl }
  | beginParams hs hc =>
    exact { h with rxcCnt_zero := fun _ => hc, collecting := fun _ => h.collecting (by simp [hs]) }
  | storeParams bs hb =>
    exact { h with arrays := h.arrays.set (memWf_memWriteRun (by simpa [capacity] using hb) (h.arrays .rxcPbuf)) }
  | completeCommand hs =>
    have ha : s.drActive = false := h.not_draining (by simp [h.collecting hs])
    exact { h with
      rxcCnt_le := Nat.zero_le _
      rxcCnt_zero := fun _ => rfl
      collecting := by simp
      draining := by simp [ha] }
  | enterTx => exact h.enterTx
  | enterRx => exact h.enterRx
  | countDelim c hc => exact { h with dlmCnt_le := hc h.dlmCnt_le }
  | append bs hb => exact h.append hb
  | appendSwap bs hb => exact h.appendSwap hb
  | swap => exact h.swapBuffers
  | snapshot hp => exact h.snapshot hp
  | copyByte v ha hi => exact h.copyByte v ha hi
  | advanceHead ha hi => exact h.advanceHead ha hi
  | silence ha => exact h.silence ha
  | endDrain ha =>
    have hs : s.rxcState = .idle := h.not_collecting (by simp [(h.draining ha).1])
    exact { h with collecting := fun hs' => absurd hs hs', draining := by simp }
  | reset d => exact h.applyReset d

/-- Settles O50, each fact of R48 read off the reset state. -/
theorem invariantHoldsAtReset : Obligations.InvariantHoldsAtReset where
  cfgValid := by decide
  rxHead_lt := by decide
  rxTail_lt := by decide
  txLenA_le := by decide
  txLenB_le := by decide
  filling_lt := by decide
  dlmCnt_le := by decide
  rxcCnt_le := by decide
  rxcCnt_zero := fun _ => rfl
  guard_iff := by decide
  guardStart_zero := fun _ => rfl
  txEn_iff := by decide
  collecting := by decide
  draining := by decide
  arrays := fun a => by cases a <;> rfl

/-- Settles O51: every effect keeps the invariant, and no part of it reads the draw counter or the script. -/
theorem everyStepKeepsTheInvariant : Obligations.EveryStepKeepsTheInvariant := fun _ _ hs h =>
  step_keeps Effect.keeps_inv (fun h => { h with }) (fun h => { h with }) hs h

/-! ### Recorded times (R40, R98) -/

/-- A time that is past stays past when NOW advances without wrapping. -/
theorem le_now_advance {t now d : Time} (h : t ≤ now) (hd : now.toNat + d.toNat < 2 ^ 64) : t ≤ now + d := by
  rw [BitVec.le_def] at h ⊢
  rw [BitVec.toNat_add_of_lt hd]
  omega

theorem Effect.keeps_timesPast {a : Actor} {s t : State} (e : Effect a s t) (h : TimesPast s) : TimesPast t := by
  have zero_le : (0 : Time) ≤ s.now := BitVec.le_def.mpr (Nat.zero_le _)
  cases e with
  | emit x => cases x <;> exact { h with }
  | advanceNow d hd =>
    exact ⟨le_now_advance h.playStart hd, le_now_advance h.guardStart hd, le_now_advance h.paramStart hd,
      le_now_advance h.lastKick hd⟩
  | noteKick => exact { h with lastKick := BitVec.le_refl _ }
  | beginParams => exact { h with paramStart := BitVec.le_refl _ }
  | enterTx => exact { h with playStart := BitVec.le_refl _, guardStart := BitVec.le_refl _ }
  | enterRx => exact { h with guardStart := zero_le }
  | appendSwap | swap => exact { h with playStart := BitVec.le_refl _ }
  | reset => exact ⟨zero_le, zero_le, zero_le, BitVec.le_refl _⟩
  | record | raise | takeStrobe | storeSample | driveSample | goTo | readHost | startHeader | countHeader | keepSelector
  | storeParams | completeCommand | countDelim | append | snapshot | copyByte | advanceHead | silence | endDrain
  | latchStrobe | arrive => exact { h with }

/-- Settles O54: a time is recorded as NOW or as 0, and NOW never goes back. -/
theorem everyStepKeepsTimesPast : Obligations.EveryStepKeepsTimesPast :=
  ⟨⟨by decide, by decide, by decide, by decide⟩, fun _ _ hs h =>
    step_keeps Effect.keeps_timesPast (fun h => { h with }) (fun h => { h with }) hs h⟩

/-! ### Written slots (R49) -/

/-- A write leaves every written slot written. -/
theorem memRead_memWrite_ne_none {m : Mem} {j : Nat} (i : Nat) (v : Byte) (h : memRead m j ≠ none) :
    memRead (memWrite m i v) j ≠ none := by
  rw [memRead_memWrite]
  split
  · exact Option.some_ne_none v
  · exact h

theorem memRead_memWrite_self (m : Mem) (i : Nat) (v : Byte) : memRead (memWrite m i v) i ≠ none := by
  simp [memRead_memWrite]

/-- After a run of writes the slots written before and those of the run are written. -/
theorem memRead_memWriteRun_ne_none {m : Mem} {i j : Nat} {bs : List Byte}
    (h : memRead m j ≠ none ∨ i ≤ j ∧ j < i + bs.length) : memRead (memWriteRun m i bs) j ≠ none := by
  rw [memRead_memWriteRun]
  split
  next hj =>
    rw [List.getElem?_eq_getElem (by omega)]
    exact Option.some_ne_none _
  next hj => exact h.resolve_right hj

/-- Bytes appended behind the written slots of a buffer are written too. -/
theorem written_append {m : Mem} {len : Nat} (bs : List Byte) (h : ∀ i, i < len → memRead m i ≠ none) :
    ∀ i, i < len + bs.length → memRead (memWriteRun m len bs) i ≠ none := by
  intro i hi
  apply memRead_memWriteRun_ne_none
  by_cases hl : i < len
  · exact .inl (h i hl)
  · exact .inr ⟨Nat.le_of_not_lt hl, hi⟩

theorem ReadableWritten.swapBuffers {s : State} (h : ReadableWritten s) : ReadableWritten (swapBuffers s) :=
  { h with
    bufferA := fun i hi => h.bufferA i (by rw [swapBuffers_txLenA] at hi; split at hi <;> omega)
    bufferB := fun i hi => h.bufferB i (by rw [swapBuffers_txLenB] at hi; split at hi <;> omega) }

theorem ReadableWritten.append {s : State} (h : ReadableWritten s) (bs : List Byte) :
    ReadableWritten (appendFilling bs s) := by
  refine { h with bufferA := ?_, bufferB := ?_ } <;> simp only [written, appendFilling, getArray] <;> split
  · exact written_append bs h.bufferA
  · exact h.bufferA
  · exact h.bufferB
  · exact written_append bs h.bufferB

/-- A stored sample extends the unsent window and the window behind a drain in flight by a written slot, or empties one that
was full (R112). -/
theorem ReadableWritten.storeSample {s : State} (h : ReadableWritten s) (hi : Inv s) (v : Byte) :
    ReadableWritten { s with rxBuf := memWrite s.rxBuf s.rxTail v, rxTail := (s.rxTail + 1) % s.cfg.cRx } :=
  { h with
    unsent :=
      window_extend (P := fun j => memRead (memWrite s.rxBuf s.rxTail v) j ≠ none) hi.rxTail_lt hi.rxHead_lt
        (fun k hk => memRead_memWrite_ne_none _ v (h.unsent k hk)) (memRead_memWrite_self _ _ v)
    inFlight := fun ha k hk => memRead_memWrite_ne_none _ v (h.inFlight ha k hk)
    behind := fun ha =>
      window_extend (P := fun j => memRead (memWrite s.rxBuf s.rxTail v) j ≠ none) hi.rxTail_lt (hi.drSnap_lt ha)
        (fun k hk => memRead_memWrite_ne_none _ v (h.behind ha k hk)) (memRead_memWrite_self _ _ v) }

/-- The drain's window is the unsent one, and none stands behind it yet (R105). -/
theorem ReadableWritten.snapshot {s : State} (h : ReadableWritten s) (hi : Inv s) :
    ReadableWritten { s with drSnap := s.rxTail, drN := unsentCount s, drI := 0, drActive := true } := by
  have htail : s.rxTail = (s.rxHead + unsentCount s) % s.cfg.cRx := (add_subMod hi.rxTail_lt hi.rxHead_lt).symm
  have hlt : unsentCount s < s.cfg.cRx := subMod_lt hi.cRx_pos
  refine { h with inFlight := fun _ k hk => ?_, behind := fun _ k hk => ?_, copied := fun _ i hlt => ?_ }
  · have hslot : (s.rxTail + (s.cfg.cRx - unsentCount s) + k) % s.cfg.cRx = (s.rxHead + k) % s.cfg.cRx := by
      rw [htail, Nat.add_assoc, Nat.mod_add_mod,
        show s.rxHead + unsentCount s + (s.cfg.cRx - unsentCount s + k) = s.rxHead + k + s.cfg.cRx by omega,
        Nat.add_mod_right]
    exact hslot ▸ h.unsent k hk
  · exact absurd (subMod_self s.rxTail _ hi.rxTail_lt ▸ hk) (Nat.not_lt_zero k)
  · exact absurd hlt (Nat.not_lt_zero i)

theorem ReadableWritten.copyByte {s : State} (h : ReadableWritten s) (ha : s.drActive = true) (v : Byte) :
    ReadableWritten { s with scratch := memWrite s.scratch s.drI v, drI := s.drI + 1 } := by
  refine { h with copied := fun _ i hi => ?_ }
  rcases Nat.lt_succ_iff_lt_or_eq.mp hi with hlt | rfl
  · exact memRead_memWrite_ne_none _ v (h.copied ha i hlt)
  · exact memRead_memWrite_self _ _ v

/-- Behind the drained window stands the next unsent one (R108). -/
theorem ReadableWritten.advanceHead {s : State} (h : ReadableWritten s) (ha : s.drActive = true) :
    ReadableWritten { s with rxHead := s.drSnap } :=
  { h with unsent := h.behind ha }

theorem readableWritten_applyReset (d : ResetDraw) (s : State) : ReadableWritten (applyReset d s) := by
  have hcount : unsentCount (applyReset d s) = 0 := by simp [unsentCount, subMod]
  refine ⟨fun k hk => ?_, by simp, by simp, by simp, by simp, by simp⟩
  rw [hcount] at hk
  exact absurd hk (Nat.not_lt_zero k)

theorem Effect.keeps_readableWritten {a : Actor} {s t : State} (e : Effect a s t) (hi : Inv s)
    (h : ReadableWritten s) : ReadableWritten t := by
  cases e with
  | emit x => cases x <;> exact { h with }
  | storeSample v => exact h.storeSample hi v
  | enterTx => exact { h with bufferA := by simp, bufferB := by simp }
  | append bs => exact h.append bs
  | appendSwap bs => exact (h.append bs).swapBuffers
  | swap => exact h.swapBuffers
  | snapshot => exact h.snapshot hi
  | copyByte v ha => exact h.copyByte ha v
  | advanceHead ha => exact h.advanceHead ha
  | silence => exact { h with copied := fun ha i hi => memRead_memWriteRun_ne_none (.inl (h.copied ha i hi)) }
  | endDrain => exact { h with inFlight := by simp, behind := by simp, copied := by simp }
  | reset d => exact readableWritten_applyReset d s
  | record | raise | takeStrobe | driveSample | noteKick | goTo | readHost | startHeader | countHeader | keepSelector
  | beginParams | storeParams | completeCommand | enterRx | countDelim | latchStrobe | advanceNow | arrive => exact { h with }

/-- Settles O55: every effect keeps the readable slots written, the invariant holding beside it. -/
theorem everyStepKeepsReadableSlotsWritten : Obligations.EveryStepKeepsReadableSlotsWritten := by
  refine ⟨{ readableWritten_applyReset ⟨0, 0⟩ State.reset with }, fun s t hi hr h => ?_⟩
  exact (step_keeps (P := fun s => Inv s ∧ ReadableWritten s)
    (fun e h => ⟨e.keeps_inv h.1, e.keeps_readableWritten h.1 h.2⟩)
    (fun h => ⟨{ h.1 with }, { h.2 with }⟩) (fun h => ⟨{ h.1 with }, { h.2 with }⟩) ⟨hi, hr⟩ h).2

/-! ### Streams, parameters and NOW (R40, R44, R45, R167) -/

/-- From s to t the history gains the entries `new`, the streams gain what these say, and neither a parameter changes nor does
NOW go back. -/
structure Records (s t : State) (new : List Entry) : Prop where
  cfg : t.cfg = s.cfg
  now : s.now ≤ t.now
  history : t.history = s.history ++ new
  hostOut : t.hostOut = s.hostOut ++ (emissions new).flatMap Emission.hostBytes
  radio : t.radio = s.radio ++ (emissions new).flatMap Emission.requests
  sampleWr : t.sampleWr = s.sampleWr ++ (emissions new).flatMap Emission.samples
  wdtKick : t.wdtKick = s.wdtKick ++ (emissions new).flatMap Emission.kicks

theorem Records.refl (s : State) : Records s s [] := by
  constructor <;> simp [emissions]

theorem Records.trans {s u t : State} {new new' : List Entry} (h : Records s u new) (h' : Records u t new') :
    Records s t (new ++ new') where
  cfg := h'.cfg.trans h.cfg
  now := BitVec.le_trans h.now h'.now
  history := by rw [h'.history, h.history, List.append_assoc]
  hostOut := by simp [h'.hostOut, h.hostOut]
  radio := by simp [h'.radio, h.radio]
  sampleWr := by simp [h'.sampleWr, h.sampleWr]
  wdtKick := by simp [h'.wdtKick, h.wdtKick]

/-- An entry of an operation or of an event is none of a stream. -/
theorem Records.entry {k : EntryKind} (hk : ∀ x, k ≠ .emit x) (info : Info) (s : State) :
    Records s (appendEntry k info s) [⟨s.now, k, info⟩] := by
  have hnone : emissions [⟨s.now, k, info⟩] = [] := by
    cases k with
    | op | event => rfl
    | emit x => exact absurd rfl (hk x)
  constructor <;> simp [hnone]

theorem Records.emit (x : Emission) (s : State) : Records s (emit x s) [⟨s.now, .emit x, .none⟩] := by
  constructor <;> simp [emissions]

/-- Every effect records what it hands to a stream. -/
theorem Effect.records {a : Actor} {s t : State} (e : Effect a s t) : ∃ new, Records s t new := by
  cases e with
  | record o info => exact ⟨_, .entry (k := .op o) nofun info s⟩
  | raise c info => exact ⟨_, .entry (k := .event c) nofun info s⟩
  | emit x => exact ⟨_, .emit x s⟩
  | enterTx => exact ⟨_, { Records.entry (k := .op .modeEnterTx) nofun .none s with }⟩
  | enterRx => exact ⟨_, { Records.entry (k := .op .modeEnterRx) nofun .none s with }⟩
  | swap | appendSwap => exact ⟨_, { Records.entry (k := .op .txSwap) nofun .none s with }⟩
  | arrive b => exact ⟨_, { Records.entry (k := .op .envHostByte) nofun (.byte b) s with }⟩
  | reset d => exact ⟨_, { Records.entry (k := .op .reset) nofun .none s with }⟩
  | advanceNow d hd => exact ⟨[], { Records.refl s with now := le_now_advance (BitVec.le_refl _) hd }⟩
  | takeStrobe | storeSample | driveSample | noteKick | goTo | readHost | startHeader | countHeader | keepSelector
  | beginParams | storeParams | completeCommand | countDelim | append | snapshot | copyByte | advanceHead | silence
  | endDrain | latchStrobe => exact ⟨[], { Records.refl s with }⟩

theorem AnyEffects.records {s t : State} (h : AnyEffects s t) : ∃ new, Records s t new :=
  h.keeps (P := fun u => ∃ new, Records s u new)
    (fun e ⟨_, hs⟩ => let ⟨_, hu⟩ := e.records; ⟨_, hs.trans hu⟩) ⟨[], .refl s⟩

/-- Settles O57: every effect records what it hands to a stream, and an instruction is a chain of effects. -/
theorem streamsGrowAndParametersStay : Obligations.StreamsGrowAndParametersStay := by
  intro i s t h
  obtain ⟨new, hr⟩ := (exec_effects h).records
  exact ⟨hr.cfg, hr.now, new, hr.history, hr.hostOut, hr.radio, hr.sampleWr, hr.wdtKick⟩

/-! ### The access matrix (R21, R183) -/

/-- What agent S never writes: the state without the rows it may write and without the history. -/
def outsideAgentS (s : State) : State :=
  { unlogged s with tickPending := false, rxTail := 0, rxBuf := [], sampleOut := 0, sampleWr := [] }

theorem Effect.outsideAgentS_eq {s t : State} (e : Effect .agentS s t) : outsideAgentS t = outsideAgentS s := by
  cases e with
  | emit x hx =>
    cases x with
    | sampleWr => rfl
    | hostOut | radio | wdtKick => exact absurd hx Bool.false_ne_true
  | record | raise | takeStrobe | storeSample | driveSample => rfl

/-- The rows that agent L never writes. -/
def outsideAgentL (s : State) : Nat × Mem × Byte × List (Time × Byte) × Bool × Time × Time :=
  (s.rxTail, s.rxBuf, s.sampleOut, s.sampleWr, s.tickPending, s.tmrNext, s.now)

theorem Effect.outsideAgentL_eq {s t : State} (e : Effect .agentL s t) : outsideAgentL t = outsideAgentL s := by
  cases e with
  | emit x hx =>
    cases x with
    | sampleWr => exact absurd hx Bool.false_ne_true
    | hostOut | radio | wdtKick => rfl
  | record | raise | noteKick | goTo | readHost | startHeader | countHeader | keepSelector | beginParams | storeParams
  | completeCommand | enterTx | enterRx | countDelim | append | appendSwap | swap | snapshot | copyByte | advanceHead
  | silence | endDrain => rfl

/-- Settles O58: TICK is a chain of effects of agent S, LOOP.ITER one of agent L. -/
theorem agentsKeepTheAccessMatrix : Obligations.AgentsKeepTheAccessMatrix := by
  intro s t
  refine ⟨fun d h => ?_, fun q h => ?_⟩
  · have hview : outsideAgentS t = outsideAgentS s := (execTick_effects h).view_eq Effect.outsideAgentS_eq
    exact congrArg
      (fun u : State =>
        { u with
          tickPending := t.tickPending, rxTail := t.rxTail, rxBuf := t.rxBuf
          sampleOut := t.sampleOut, sampleWr := t.sampleWr })
      hview
  · have hview : outsideAgentL t = outsideAgentL s := (agentLStep_effects h).view_eq Effect.outsideAgentL_eq
    simpa only [outsideAgentL, Prod.mk.injEq] using hview

end Sys2Proof.Machine
end

section
/-! SUPPORT. Single operations: requests for steps that are not enabled (log entry 11), the commands on collected parameters
(R136, R138), and the environment's steps (R40, R41). -/

namespace Sys2Proof.Machine

/-! ### Steps that are not enabled (log entry 11) -/

theorem execTimerStrobe_of_lt {s : State} (h : s.now < s.tmrNext) : execTimerStrobe s = .next s :=
  if_neg (by simpa [strobeDue] using h)

theorem execTickRx_transmit {s : State} (h : s.mode = .transmit) (d : SampleRead) : execTickRx d s = .next s := by
  simp only [execTickRx, h]

theorem execTickTx_receive {s : State} (h : s.mode = .receive) : execTickTx s = .next s := by
  simp only [execTickTx, h]

/-- No start step outside phase RX_DRAIN or in Transmit (R105). -/
theorem drainStep_idle {s : State} (q : DrainDraw) (ha : s.drActive = false)
    (h : s.loopPhase ≠ .rxDrain ∨ s.mode = .transmit) : drainStep q s = .next s := by
  have hstart : drainStartEnabled s = false := by
    rcases h with h | h <;> simp [drainStartEnabled, h]
  simp [drainStep, ha, hstart]

/-- No step of a drain that has copied more bytes than it holds (log entry 20). -/
theorem drainStep_past {s : State} (q : DrainDraw) (ha : s.drActive = true) (h : s.drN < s.drI) :
    drainStep q s = .next s := by
  unfold drainStep
  rw [if_pos ha, if_neg (Nat.lt_asymm h), if_neg h.ne']

theorem collectorStep_idle {s : State} (hs : s.rxcState = .idle) (hp : s.loopPhase ≠ .rxCmd) :
    collectorStep s = .next s := by
  simp only [collectorStep, hs, if_neg hp]

/-- The collector holds with no host byte (R130). -/
theorem collectorStep_noByte {s : State} (hs : s.rxcState = .hdr) (hb : s.hostIn = []) : collectorStep s = .next s := by
  simp only [collectorStep, hs, headerByte, hb]

/-- The collector holds short of its parameters before the deadline (R131). -/
theorem collectorStep_waiting {s : State} (hs : s.rxcState = .param) (hb : s.hostIn.length < paramsWanted s)
    (ht : elapsed s s.rxcT0 < s.cfg.paramTimeoutUs) : collectorStep s = .next s := by
  have hav : ¬paramsAvailable s = true := fun h =>
    Nat.not_le.mpr hb (of_decide_eq_true h)
  have hto : ¬paramTimedOut s = true := by simpa [paramTimedOut] using ht
  simp only [collectorStep, hs, paramStep, if_neg hav, if_neg hto]

/-- In phase RX_CMD agent L's step is the collector's (R160). -/
theorem agentLStep_rxCmd {s : State} (q : DrainDraw) (hp : s.loopPhase = .rxCmd) : agentLStep q s = collectorStep s := by
  simp only [agentLStep, hp]

theorem execCmdAbandon_disabled {s : State}
    (h : s.rxcState ≠ .param ∨ paramsWanted s ≤ s.hostIn.length ∨ elapsed s s.rxcT0 < s.cfg.paramTimeoutUs) :
    execCmdAbandon s = .next s := by
  refine if_neg ?_
  rcases h with h | h | h
  · simp [abandonEnabled, h]
  · simp [abandonEnabled, paramsAvailable, hostAvail, h]
  · simp [abandonEnabled, paramTimedOut, h]

theorem execTxScan_disabled {s : State} (h : s.loopPhase ≠ .txBranch ∨ s.mode = .receive ∨ guardFires s = true) :
    execTxScan s = .next s := by
  refine if_neg ?_
  rcases h with h | h | h <;> simp [scanEnabled, h]

theorem execEnvWdtExpire_early {s : State} (h : elapsed s s.wdtLast < s.cfg.wdtTimeoutUs) (d : ResetDraw) :
    execEnvWdtExpire d s = .next s :=
  if_neg (by simpa [watchdogDue] using h)

/-- Phase TX_BRANCH has no step in Receive while the guard is quiet (R143). -/
theorem agentLStep_txBranch_receive {s : State} (q : DrainDraw) (hp : s.loopPhase = .txBranch) (hm : s.mode = .receive)
    (hg : guardFires s = false) : agentLStep q s = .next s := by
  simp [agentLStep, txBranch, hp, hm, hg]

/-- The parameters are stored exactly when each of their slots has been written (R49). -/
theorem paramsStored_iff {n : Nat} {s : State} : paramsStored n s = true ↔ ∀ i, i < n → written s .rxcPbuf i := by
  simp [paramsStored, written, getArray, Option.isSome_iff_ne_none]

theorem execCmdTuneTo_unwritten {s : State} (hm : s.mode = .receive) {i : Nat} (hi : i < 17)
    (hw : ¬written s .rxcPbuf i) : execCmdTuneTo s = .next s := by
  simp only [execCmdTuneTo, hm]
  exact if_neg fun h => hw (paramsStored_iff.mp h i hi)

theorem execCmdFilters_unwritten {s : State} (hm : s.mode = .receive) {i : Nat} (hi : i < 3)
    (hw : ¬written s .rxcPbuf i) : execCmdFilters s = .next s := by
  simp only [execCmdFilters, hm]
  exact if_neg fun h => hw (paramsStored_iff.mp h i hi)

/-- Settles O18, one lemma for each step that is not enabled. -/
theorem heldCollectorChangesNothing : Obligations.HeldCollectorChangesNothing := by
  intro s q
  refine ⟨fun hp hheld => ?_, execTimerStrobe_of_lt, execTickRx_transmit, execTickTx_receive, drainStep_idle q,
    drainStep_past q, collectorStep_idle, execCmdAbandon_disabled, execTxScan_disabled, execEnvWdtExpire_early,
    agentLStep_txBranch_receive q, fun hm i => execCmdTuneTo_unwritten hm, fun hm i => execCmdFilters_unwritten hm⟩
  have hold : collectorStep s = .next s := by
    rcases hheld with ⟨hs, hb⟩ | ⟨hs, hb, ht⟩
    · exact collectorStep_noByte hs hb
    · exact collectorStep_waiting hs hb ht
  exact ⟨hold, (agentLStep_rxCmd q hp).trans hold⟩

/-! ### Commands on collected parameters (R136, R138) -/

theorem execCmdTuneTo_stored {s : State} (hm : s.mode = .receive) (hw : paramsStored 17 s = true) :
    execCmdTuneTo s = tuneTo s := by
  simp only [execCmdTuneTo, hm, if_pos hw]

theorem execCmdFilters_stored {s : State} (hm : s.mode = .receive) (hw : paramsStored 3 s = true) :
    execCmdFilters s = setFilters s := by
  simp only [execCmdFilters, hm, if_pos hw]

/-- MODE.ENTER_RX raises no event. -/
@[simp] theorem errorEvents_enterRx (s : State) : errorEvents (enterRx s) = errorEvents s := by
  simp [errorEvents, Entry.isEvent]

/-- Settles O20: with their slots written both commands run, and their equations give the request. -/
theorem collectedParametersAreForwarded : Obligations.CollectedParametersAreForwarded := by
  intro s hm raw field
  refine ⟨fun hw => ?_, fun hw => ?_⟩
  · refine ⟨_, (execCmdTuneTo_stored hm (paramsStored_iff.mpr hw)).trans (tuneTo_eq s), ?_, by simp⟩
    rfl
  · refine ⟨_, (execCmdFilters_stored hm (paramsStored_iff.mpr hw)).trans (setFilters_eq s), ?_, by simp⟩
    rfl

/-! ### The environment (R40, R41) -/

theorem execEnvTime_of_lt {s : State} {d : Time} (hd : 1 ≤ d.toNat) (h : s.now.toNat + d.toNat < 2 ^ 64) :
    execEnvTime d s = .next { recordOp .envTime (.time d) s with now := s.now + d } :=
  if_pos ⟨hd, h⟩

theorem execEnvTime_illegal {s : State} {d : Time} (h : d = 0 ∨ 2 ^ 64 ≤ s.now.toNat + d.toNat) :
    execEnvTime d s = .next s := by
  refine if_neg fun ⟨hd, hlt⟩ => ?_
  rcases h with rfl | h
  · exact absurd hd (by decide)
  · omega

@[simp] theorem unlogged_hostAppendAll (bs : List Byte) (s : State) :
    unlogged (hostAppendAll bs s) = unlogged { s with hostIn := s.hostIn ++ bs } := by
  rw [hostAppendAll_eq]
  rfl

@[simp] theorem errorEvents_hostAppendAll (bs : List Byte) (s : State) :
    errorEvents (hostAppendAll bs s) = errorEvents s := by
  simp [hostAppendAll_eq, errorEvents, Entry.isEvent]

/-- Where agent L does not collect a fresh command, a Receive frame is not its next input (log entry 14). -/
theorem atReceiveCommand_eq_false {s : State}
    (h : s.mode = .transmit ∨ s.loopPhase = .txBranch ∨ s.loopPhase = .rxDrain ∨ s.rxcState ≠ .idle ∨ s.hostIn ≠ []) :
    atReceiveCommand s = false := by
  rcases h with h | h | h | h | h <;> simp [atReceiveCommand, h]

/-- Where one scan would not take just the frame, a Transmit frame is not agent L's next input (log entry 14). -/
theorem atTransmitFrame_eq_false {s : State}
    (h : s.mode = .receive ∨ s.loopPhase = .rxCmd ∨ s.loopPhase = .rxDrain ∨ s.dlmCnt ≠ 0 ∨ guardFires s = true ∨
      s.hostIn ≠ [] ∨ ∃ k, s.cfg.chunkMax = some k ∧ k < 9) :
    atTransmitFrame s = false := by
  rcases h with h | h | h | h | h | h | ⟨k, hk, hlt⟩
  all_goals simp [atTransmitFrame, *]

/-- A Receive frame that agent L does not take next waits in the FIFO. -/
theorem takeReceiveFrame_waits {s : State} (h : atReceiveCommand s = false) (r : Request) (n : Nat) :
    takeReceiveFrame r n s = .next (hostAppendAll r.bytes s) :=
  if_neg (by simp [h])

theorem takeTransmitFrame_waits {s : State} (h : atTransmitFrame s = false) (r : Request) :
    takeTransmitFrame r s = .next (hostAppendAll r.bytes s) :=
  if_neg (by simp [h])

/-- An instruction that only appends bytes completes with them at the FIFO's tail. -/
theorem completesWith_hostAppendAll {i : Instr} {s : State} {bs : List Byte}
    (h : exec i s = .next (hostAppendAll bs s)) : CompletesWith i s { s with hostIn := s.hostIn ++ bs } [] :=
  ⟨_, h, unlogged_hostAppendAll bs s, by simp⟩

/-- Settles O42: an advance is one or it is no step, and bytes that agent L does not take at once wait. -/
theorem environmentStepsChangeOnlyTheirInput : Obligations.EnvironmentStepsChangeOnlyTheirInput := by
  intro s d b
  refine ⟨fun hd h => ?_, execEnvTime_illegal, ?_, fun h pre p f sel i hi => ?_, fun h sel i hi => ?_⟩
  · exact ⟨_, execEnvTime_of_lt hd h, rfl, by simp [errorEvents, Entry.isEvent]⟩
  · exact completesWith_hostAppendAll (bs := [b]) rfl
  · have waits := takeReceiveFrame_waits (atReceiveCommand_eq_false h)
    simp only [List.mem_cons, List.not_mem_nil, or_false] at hi
    rcases hi with rfl | rfl | rfl | rfl <;> exact completesWith_hostAppendAll (waits _ _)
  · have waits := takeTransmitFrame_waits (atTransmitFrame_eq_false h)
    simp only [List.mem_cons, List.not_mem_nil, or_false] at hi
    rcases hi with rfl | rfl <;> exact completesWith_hostAppendAll (waits _)

end Sys2Proof.Machine
end

section
/-! SUPPORT. No instruction stops from a state that meets the invariant (R55): each path of the meanings completes, because its
indexes stay inside their arrays. -/

namespace Sys2Proof.Machine

/-! ### Completing -/

/-- The result is a next state: neither a fault nor a refusal. -/
def Completes (r : Result) : Prop := ∃ t, r = .next t

theorem completes_next (t : State) : Completes (.next t) := ⟨t, rfl⟩

theorem Completes.andThen {r : Result} {f : State → Result} (hr : Completes r)
    (hf : ∀ t, r = .next t → Completes (f t)) : Completes (andThen r f) := by
  obtain ⟨t, rfl⟩ := hr
  exact hf t rfl

theorem Completes.ne_fault {r : Result} (h : Completes r) (e : Fault) : r ≠ .fault e := by
  obtain ⟨t, rfl⟩ := h
  exact nofun

/-! ### Agent S -/

theorem Inv.playingLen_le {s : State} (h : Inv s) : playingLen s ≤ s.cfg.cTx := by
  unfold playingLen
  split
  · exact h.txLenB_le
  · exact h.txLenA_le

theorem tickRxPath_completes {s : State} (d : SampleRead) (h : s.rxTail < s.cfg.cRx) :
    Completes (tickRxPath d s) := by
  cases d with
  | fault => exact completes_next _
  | value v => exact ⟨_, tickRxPath_value v h⟩

theorem tickTxPath_completes {s : State} (h : playingLen s ≤ s.cfg.cTx) : Completes (tickTxPath s) :=
  ⟨_, tickTxPath_of_le h⟩

theorem execTick_completes {s : State} (d : SampleRead) (h : Inv s) : Completes (execTick d s) := by
  unfold execTick
  split
  · dsimp only
    split
    · exact tickRxPath_completes d h.rxTail_lt
    · exact tickTxPath_completes h.playingLen_le
  · exact completes_next _

theorem execTickRx_completes {s : State} (d : SampleRead) (h : Inv s) : Completes (execTickRx d s) := by
  unfold execTickRx
  split
  · exact tickRxPath_completes d h.rxTail_lt
  · exact completes_next _

theorem execTickTx_completes {s : State} (h : Inv s) : Completes (execTickTx s) := by
  unfold execTickTx
  split
  · exact completes_next _
  · exact tickTxPath_completes h.playingLen_le

/-! ### The scan -/

theorem scanFinish_completes (r : ScanResult) (s : State) : Completes (scanFinish r s) := by
  unfold scanFinish
  split
  · exact completes_next _
  · split
    · exact completes_next _
    · exact ⟨_, ingest_eq _ s⟩

theorem scan_completes (s : State) : Completes (scan s) := by
  unfold scan scanChunk
  dsimp only
  split
  · exact completes_next _
  · exact (scanFinish_completes _ _).andThen fun _ _ => completes_next _

theorem txBranch_completes (s : State) : Completes (txBranch s) := by
  unfold txBranch
  split
  · exact completes_next _
  · split
    · exact scan_completes _
    · exact completes_next _

theorem execTxScan_completes (s : State) : Completes (execTxScan s) := by
  unfold execTxScan
  split
  · exact scan_completes s
  · exact completes_next _

/-! ### The collector -/

theorem runParamCommand_completes (s : State) : Completes (runParamCommand s) := by
  unfold runParamCommand
  split
  · exact ⟨_, tuneTo_eq s⟩
  · exact ⟨_, setFilters_eq s⟩

theorem paramStep_completes (s : State) : Completes (paramStep s) := by
  by_cases h : paramsAvailable s = true
  · rw [paramStep_available h]
    exact (runParamCommand_completes _).andThen fun _ _ => completes_next _
  · unfold paramStep
    rw [if_neg h]
    split <;> exact completes_next _

theorem collectorStep_completes (s : State) : Completes (collectorStep s) := by
  unfold collectorStep
  split
  · split <;> exact completes_next _
  · exact completes_next _
  · exact paramStep_completes s

theorem execCmdPttDown_completes (s : State) : Completes (execCmdPttDown s) := by
  unfold execCmdPttDown
  split <;> exact completes_next _

theorem execCmdTuneTo_completes (s : State) : Completes (execCmdTuneTo s) := by
  unfold execCmdTuneTo
  split
  · split
    · exact ⟨_, tuneTo_eq s⟩
    · exact completes_next _
  · exact completes_next _

theorem execCmdFilters_completes (s : State) : Completes (execCmdFilters s) := by
  unfold execCmdFilters
  split
  · split
    · exact ⟨_, setFilters_eq s⟩
    · exact completes_next _
  · exact completes_next _

theorem execCmdAbandon_completes (s : State) : Completes (execCmdAbandon s) := by
  unfold execCmdAbandon
  split <;> exact completes_next _

theorem execCmdPttUp_completes (s : State) : Completes (execCmdPttUp s) := by
  unfold execCmdPttUp
  split <;> exact completes_next _

/-! ### The drain and the loop -/

theorem drainCommit_completes {s : State} (q : Bool) (h : s.drN < s.cfg.cRx) : Completes (drainCommit q s) := by
  rw [drainCommit_of_lt q h]
  cases q <;> exact ⟨_, drainSend_of_lt h⟩

/-- A drain in flight copies and sends at most C_RX - 1 bytes, so it stays inside SCRATCH (R48, R106, R108). -/
theorem drainStep_completes {s : State} (q : DrainDraw) (h : Inv s) : Completes (drainStep q s) := by
  unfold drainStep
  split
  next ha =>
    obtain ⟨-, -, hn, -⟩ := h.draining ha
    split
    next hi => exact ⟨_, drainCopy_of_lt (by omega)⟩
    · split
      · split
        · exact completes_next _
        · exact drainCommit_completes _ hn
      · exact completes_next _
  · split <;> exact completes_next _

theorem agentLStep_completes {s : State} (q : DrainDraw) (h : Inv s) : Completes (agentLStep q s) := by
  unfold agentLStep
  split
  · exact completes_next _
  · exact txBranch_completes s
  · exact collectorStep_completes s
  · exact drainStep_completes q h

/-! ### Timer, environment and frames -/

theorem execTimerStrobe_completes (s : State) : Completes (execTimerStrobe s) := by
  unfold execTimerStrobe
  split <;> exact completes_next _

theorem execEnvTime_completes (d : Time) (s : State) : Completes (execEnvTime d s) := by
  unfold execEnvTime
  split <;> exact completes_next _

theorem execEnvWdtExpire_completes (d : ResetDraw) (s : State) : Completes (execEnvWdtExpire d s) := by
  unfold execEnvWdtExpire
  split <;> exact completes_next _

theorem agentLSteps_completes {s : State} (n : Nat) (h : Inv s) : Completes (agentLSteps n s) := by
  induction n generalizing s with
  | zero => exact completes_next _
  | succ n ih =>
    exact (agentLStep_completes _ h).andThen fun _ ht =>
      ih ((agentLStep_effects ht).any.keeps Effect.keeps_inv h)

theorem Inv.hostAppendAll {s : State} (h : Inv s) (bs : List Byte) : Inv (hostAppendAll bs s) :=
  (hostAppendAll_effects bs s).any.keeps Effect.keeps_inv h

theorem takeReceiveFrame_completes {s : State} (r : Request) (n : Nat) (h : Inv s) :
    Completes (takeReceiveFrame r n s) := by
  unfold takeReceiveFrame
  dsimp only
  split
  · exact agentLSteps_completes _ (h.hostAppendAll r.bytes)
  · exact completes_next _

theorem takeTransmitFrame_completes {s : State} (r : Request) (h : Inv s) : Completes (takeTransmitFrame r s) := by
  unfold takeTransmitFrame
  dsimp only
  split
  · exact agentLSteps_completes _ (h.hostAppendAll r.bytes)
  · exact completes_next _

/-! ### Every instruction and every step -/

/-- From a state that meets the invariant every instruction answers a next state. -/
theorem exec_completes {s : State} (i : Instr) (h : Inv s) : Completes (exec i s) := by
  cases i with
  | timerStrobe => exact execTimerStrobe_completes s
  | tick d => exact execTick_completes d h
  | tickRx d => exact execTickRx_completes d h
  | tickTx => exact execTickTx_completes h
  | rxDrain q => exact drainStep_completes q h
  | rxCmd => exact collectorStep_completes s
  | cmdPttDown => exact execCmdPttDown_completes s
  | cmdTuneTo => exact execCmdTuneTo_completes s
  | cmdFilters => exact execCmdFilters_completes s
  | cmdAbandon => exact execCmdAbandon_completes s
  | txScan => exact execTxScan_completes s
  | txIngest p => exact ⟨_, ingest_eq p s⟩
  | cmdPttUp => exact execCmdPttUp_completes s
  | loopIter q => exact agentLStep_completes q h
  | envTime d => exact execEnvTime_completes d s
  | envWdtExpire d => exact execEnvWdtExpire_completes d s
  | framePttDown | frameTuneTo | frameFilters | frameIgnore => exact takeReceiveFrame_completes _ _ h
  | framePttUp | frameTxIgnore => exact takeTransmitFrame_completes _ h
  | cmdIgnore | txSwap | cmdTxIgnore | modeEnterTx | modeEnterRx | guardCheck | wdtKick | reset | envHostByte =>
    exact completes_next _

/-- The state a step runs its instruction on meets the invariant too. -/
theorem StepsFrom.keeps_inv {s u : State} (h : StepsFrom s u) (hs : Inv s) : Inv u := by
  cases h with
  | same => exact hs
  | drawn | popped => exact { hs with }

/-- Settles O52: a step is one instruction, which completes, or the refusal of a line that names none. -/
theorem noStepFaults : Obligations.NoStepFaults := by
  intro s hs e
  unfold step
  split
  next i u hnext => exact (exec_completes i ((nextInstr_from hnext).keeps_inv hs)).ne_fault e
  · exact nofun

end Sys2Proof.Machine
end

section
/-! SUPPORT. The order in which a step takes its instruction (R62, R90, R182). -/

namespace Sys2Proof.Machine

theorem scriptHead_cons {s : State} {r : Request} {rest : List Request} (h : s.script = r :: rest) :
    scriptHead s = some (decode r) := by simp [scriptHead, h]

/-- The script's first line is what the head decodes from. -/
theorem scriptHead_eq_some {s : State} {i : Except DecodeError Instr} :
    scriptHead s = some i ↔ ∃ r rest, s.script = r :: rest ∧ decode r = i := by
  cases hs : s.script <;> simp [scriptHead, hs]

theorem popScript_cons {s : State} {r : Request} {rest : List Request} (h : s.script = r :: rest) :
    popScript s = { s with script := rest } := by simp [popScript, h]

theorem step_of_watchdogDue {s : State} (h : watchdogDue s = true) :
    step s = exec (chooseExpiry s).1 (chooseExpiry s).2 := by
  simp only [step, nextInstr, h, if_true]

theorem step_of_strobeDue {s : State} (hw : watchdogDue s = false) (h : strobeDue s = true) :
    step s = exec (chooseStrobe s).1 (chooseStrobe s).2 := by
  simp only [step, nextInstr, hw, h, if_true, Bool.false_eq_true, if_false]

theorem chooseExpiry_scripted {s : State} {d : ResetDraw} (h : scriptHead s = some (.ok (.envWdtExpire d))) :
    chooseExpiry s = (.envWdtExpire d, popScript s) := by
  simp only [chooseExpiry, h]

theorem chooseExpiry_drawn {s : State} (h : ∀ d, scriptHead s ≠ some (.ok (.envWdtExpire d))) :
    chooseExpiry s = (.envWdtExpire (Config.freeReset s.draws), nextDraw s) := by
  unfold chooseExpiry
  split
  next d hd => exact absurd hd (h d)
  · rfl

theorem chooseStrobe_scripted {s : State} (h : scriptHead s = some (.ok .timerStrobe)) :
    chooseStrobe s = (.timerStrobe, popScript s) := by
  simp only [chooseStrobe, h]

theorem chooseStrobe_unscripted {s : State} (h : scriptHead s ≠ some (.ok .timerStrobe)) :
    chooseStrobe s = (.timerStrobe, s) := by
  unfold chooseStrobe
  split
  next hd => exact absurd hd h
  · rfl

/-- The free choice is a host byte, a time advance, a TICK that is pending or agent L's step (R62). -/
theorem freeStep_cases (s : State) :
    (∃ b, freeStep s = .envHostByte b) ∨ (∃ d, freeStep s = .envTime d) ∨
      (s.tickPending = true ∧ ∃ d, freeStep s = .tick d) ∨ ∃ q, freeStep s = .loopIter q := by
  have hmem := freeStep_mem s
  simp only [freeSteps, List.mem_append, List.mem_ite_nil_right, List.mem_singleton] at hmem
  rcases hmem with ((h | ⟨-, h⟩) | ⟨htick, h⟩) | ⟨-, h⟩
  · exact .inl ⟨_, h⟩
  · exact .inr (.inl ⟨_, h⟩)
  · exact .inr (.inr (.inl ⟨htick, _, h⟩))
  · exact .inr (.inr (.inr ⟨_, h⟩))

/-- Settles O49: the watchdog's choice, then the timer's, then the free one. -/
theorem stepTakesTheHighestPriority : Obligations.StepTakesTheHighestPriority := by
  intro s
  refine ⟨fun hw => ⟨fun r rest d hs hr => ?_, fun hno => ?_⟩,
    fun hw ht => ⟨fun r rest hs hr => ?_, fun hno => ?_⟩, fun hw ht hs => ?_⟩
  · rw [step_of_watchdogDue hw, chooseExpiry_scripted (by rw [scriptHead_cons hs, hr]), popScript_cons hs]
  · have hfree : ∀ d, scriptHead s ≠ some (.ok (.envWdtExpire d)) := fun d h => by
      obtain ⟨r, rest, hs, hr⟩ := scriptHead_eq_some.mp h
      exact hno r rest d hs hr
    exact ⟨_, by rw [step_of_watchdogDue hw, chooseExpiry_drawn hfree]; rfl⟩
  · rw [step_of_strobeDue hw ht, chooseStrobe_scripted (by rw [scriptHead_cons hs, hr]), popScript_cons hs]
  · have hfree : scriptHead s ≠ some (.ok .timerStrobe) := fun h => by
      obtain ⟨r, rest, hs, hr⟩ := scriptHead_eq_some.mp h
      exact hno r rest hs hr
    rw [step_of_strobeDue hw ht, chooseStrobe_unscripted hfree]
  · exact ⟨freeStep s, step_free hw ht hs, freeStep_cases s⟩

end Sys2Proof.Machine
end

section
/-! SUPPORT. Agent L's step and the Tx buffers (R54, R115): only TX.INGEST writes one, and it is the one being filled. -/

namespace Sys2Proof.Machine

/-! ### Steps that write neither Tx buffer -/

/-- What the slots of the two Tx buffers are read from. -/
def txArrays (s : State) : Mem × Mem × Nat := (s.txBufA, s.txBufB, s.arrayEpoch)

@[simp] theorem txArrays_completeCommand (s : State) : txArrays (completeCommand s) = txArrays s := rfl

@[simp] theorem txArrays_setRxcPbuf (m : Mem) (s : State) : txArrays (setArray .rxcPbuf m s) = txArrays s := rfl

@[simp] theorem txArrays_hostDrop (n : Nat) (s : State) : txArrays (hostDrop n s) = txArrays s := rfl

@[simp] theorem txArrays_raiseEvent (e : EventCode) (info : Info) (s : State) :
    txArrays (raiseEvent e info s) = txArrays s := rfl

@[simp] theorem txArrays_recordOp (o : OpName) (info : Info) (s : State) : txArrays (recordOp o info s) = txArrays s := rfl

theorem runParamCommand_txArrays {s t : State} (h : runParamCommand s = .next t) : txArrays t = txArrays s := by
  unfold runParamCommand at h
  split at h
  · cases (tuneTo_eq s).symm.trans h; rfl
  · cases (setFilters_eq s).symm.trans h; rfl

theorem paramStep_txArrays {s t : State} (h : paramStep s = .next t) : txArrays t = txArrays s := by
  by_cases ha : paramsAvailable s = true
  · rw [paramStep_available ha] at h
    obtain ⟨u, hu, ht⟩ := andThen_eq_next.mp h
    cases ht
    simpa using runParamCommand_txArrays hu
  · unfold paramStep at h
    rw [if_neg ha] at h
    split at h <;> cases h
    · simp [abandon]
    · rfl

theorem dispatchSelector_txArrays (s : State) : txArrays (dispatchSelector s) = txArrays s := by
  unfold dispatchSelector
  split <;> rfl

theorem headerByte_txArrays (s : State) : txArrays (headerByte s) = txArrays s := by
  unfold headerByte
  split
  · rfl
  · dsimp only
    split
    · rfl
    · exact dispatchSelector_txArrays _

theorem collectorStep_txArrays {s t : State} (h : collectorStep s = .next t) : txArrays t = txArrays s := by
  unfold collectorStep at h
  split at h
  · split at h <;> cases h <;> rfl
  · cases h; exact headerByte_txArrays s
  · exact paramStep_txArrays h

theorem drainCopy_txArrays {s t : State} (h : drainCopy s = .next t) : txArrays t = txArrays s := by
  unfold drainCopy at h
  dsimp only at h
  split at h
  · obtain ⟨u, hu, ht⟩ := andThen_eq_next.mp h
    obtain ⟨-, rfl⟩ := writeSlot_eq_next.mp hu
    cases ht; rfl
  · cases h

theorem squelchGate_txArrays {q : Bool} {s t : State} (h : squelchGate q s = .next t) : txArrays t = txArrays s := by
  unfold squelchGate at h
  split at h
  · rw [writeSlots_eq_next h]; rfl
  · cases h; rfl

theorem drainSend_txArrays {s t : State} (h : drainSend s = .next t) : txArrays t = txArrays s := by
  unfold drainSend at h
  split at h <;> cases h
  rfl

theorem drainCommit_txArrays {q : Bool} {s t : State} (h : drainCommit q s = .next t) : txArrays t = txArrays s := by
  obtain ⟨u, hu, ht⟩ := andThen_eq_next.mp h
  exact (drainSend_txArrays ht).trans (squelchGate_txArrays (s := headWrite s) hu)

theorem drainStart_txArrays (s : State) : txArrays (drainStart s) = txArrays s := by
  unfold drainStart
  dsimp only
  split <;> rfl

theorem drainStep_txArrays {q : DrainDraw} {s t : State} (h : drainStep q s = .next t) : txArrays t = txArrays s := by
  unfold drainStep at h
  split at h
  · split at h
    · exact drainCopy_txArrays h
    · split at h
      · split at h
        · cases h; rfl
        · exact drainCommit_txArrays h
      · cases h; rfl
  · split at h <;> cases h
    · exact drainStart_txArrays s
    · rfl

/-! ### Steps that write the filling buffer -/

/-- What the slots of an array are read from. -/
def arraySource (a : ArrayName) (s : State) : Mem × Nat := (getArray s a, s.arrayEpoch)

/-- From s to t the buffer that plays in s keeps its contents. -/
def KeepsPlaying (s t : State) : Prop := arraySource (playingBuffer s) t = arraySource (playingBuffer s) s

theorem KeepsPlaying.slot_eq {s t : State} (h : KeepsPlaying s t) (i : Nat) :
    slot t (playingBuffer s) i = slot s (playingBuffer s) i := by
  obtain ⟨ha, he⟩ := Prod.mk.inj h
  exact slot_congr ha he i

theorem arraySource_of_txArrays {s t : State} (h : txArrays t = txArrays s) (u : State) :
    arraySource (playingBuffer u) t = arraySource (playingBuffer u) s := by
  simp only [txArrays, Prod.mk.injEq] at h
  obtain ⟨hA, hB, he⟩ := h
  unfold playingBuffer
  split <;> simp [arraySource, getArray, hA, hB, he]

theorem KeepsPlaying.of_txArrays {s t : State} (h : txArrays t = txArrays s) : KeepsPlaying s t :=
  arraySource_of_txArrays h s

theorem playingBuffer_congr {s t : State} (h : t.txFillA = s.txFillA) : playingBuffer t = playingBuffer s := by
  simp only [playingBuffer, h]

/-- What goes before and behind writes neither buffer, and what goes before leaves the roles as they are. -/
theorem KeepsPlaying.between {s u v t : State} (h : KeepsPlaying u v) (hrole : u.txFillA = s.txFillA)
    (hu : txArrays u = txArrays s) (ht : txArrays t = txArrays v) : KeepsPlaying s t := by
  rw [KeepsPlaying, playingBuffer_congr hrole] at h
  exact ((arraySource_of_txArrays ht s).trans h).trans (arraySource_of_txArrays hu s)

/-- An append goes to the other buffer (R115). -/
theorem appendFilling_keepsPlaying (bs : List Byte) (s : State) : KeepsPlaying s (appendFilling bs s) := by
  cases hf : s.txFillA <;> simp [KeepsPlaying, arraySource, appendFilling, playingBuffer, getArray, hf]

theorem swapIfDue_txArrays (s : State) : txArrays (swapIfDue s) = txArrays s := by
  unfold swapIfDue
  split <;> rfl

theorem noteDrop_txArrays (n : Nat) (s : State) : txArrays (noteDrop n s) = txArrays s := by
  unfold noteDrop
  split <;> rfl

theorem noteDrop_txFillA (n : Nat) (s : State) : (noteDrop n s).txFillA = s.txFillA := by
  unfold noteDrop
  split <;> rfl

/-- TX.INGEST appends before it swaps, so the buffer then playing keeps its contents (R54, R116). -/
theorem ingest_keepsPlaying {p : List Byte} {s t : State} (h : ingest p s = .next t) : KeepsPlaying s t := by
  cases (ingest_eq p s).symm.trans h
  refine (appendFilling_keepsPlaying _ _).between ?_ ?_ (swapIfDue_txArrays _)
  · simp [noteDrop_txFillA]
  · simp [noteDrop_txArrays]

theorem scanFinish_keepsPlaying {r : ScanResult} {s t : State} (h : scanFinish r s = .next t) : KeepsPlaying s t := by
  unfold scanFinish at h
  split at h
  · cases h; exact .of_txArrays rfl
  · split at h
    · cases h; rfl
    · exact ingest_keepsPlaying h

theorem scanChunk_keepsPlaying {c : List Byte} {s t : State} (h : scanChunk c s = .next t) : KeepsPlaying s t := by
  obtain ⟨u, hu, ht⟩ := andThen_eq_next.mp h
  rw [ignored_foldl] at hu
  cases ht
  exact (scanFinish_keepsPlaying hu).between rfl rfl rfl

theorem scan_keepsPlaying {s t : State} (h : scan s = .next t) : KeepsPlaying s t := by
  unfold scan at h
  dsimp only at h
  split at h
  · cases h; exact .of_txArrays rfl
  · exact (scanChunk_keepsPlaying h).between rfl rfl rfl

theorem checkGuard_txArrays (s : State) : txArrays (checkGuard s) = txArrays s := by
  unfold checkGuard
  dsimp only
  split <;> simp [txArrays]

theorem checkGuard_txFillA (s : State) : (checkGuard s).txFillA = s.txFillA := by
  unfold checkGuard
  dsimp only
  split <;> simp

theorem txBranch_keepsPlaying {s t : State} (h : txBranch s = .next t) : KeepsPlaying s t := by
  unfold txBranch at h
  split at h
  · cases h; exact .of_txArrays (checkGuard_txArrays s)
  · split at h
    · exact (scan_keepsPlaying h).between (checkGuard_txFillA s) (checkGuard_txArrays s) rfl
    · cases h; rfl

theorem iterStart_txArrays (s : State) : txArrays (iterStart s) = txArrays s := by
  simp [txArrays, iterStart]

theorem agentLStep_keepsPlaying {q : DrainDraw} {s t : State} (h : agentLStep q s = .next t) : KeepsPlaying s t := by
  unfold agentLStep at h
  split at h
  · cases h; exact .of_txArrays (iterStart_txArrays s)
  · exact txBranch_keepsPlaying h
  · exact .of_txArrays (collectorStep_txArrays h)
  · exact .of_txArrays (drainStep_txArrays h)

/-- Settles O59: of agent L's steps only the scan writes a Tx buffer, and it appends to the one being filled. -/
theorem agentLNeverWritesThePlayingBuffer : Obligations.AgentLNeverWritesThePlayingBuffer := fun _ _ _ h =>
  (agentLStep_keepsPlaying h).slot_eq

end Sys2Proof.Machine
end

section
/-! SUPPORT. The drain (41_rx_buffer.md): which step RX.DRAIN takes, what its commit step sends, and a whole drain with no tick
during it. -/

namespace Sys2Proof.Machine

/-! ### Which step is taken -/

/-- The start step (R105). -/
theorem drainStep_start {s : State} (q : DrainDraw) (hp : s.loopPhase = .rxDrain) (ha : s.drActive = false)
    (hm : s.mode = .receive) : drainStep q s = .next (drainStart s) := by
  simp [drainStep, drainStartEnabled, hp, ha, hm]

/-- A copy step while bytes are left (R106). -/
theorem drainStep_copy {s : State} (q : DrainDraw) (ha : s.drActive = true) (hi : s.drI < s.drN) :
    drainStep q s = drainCopy s := by
  simp only [drainStep, ha, hi, if_true]

/-- The head write apart, if the draw says so and it has not been done (R60; log entry 23). -/
theorem drainStep_headWrite {s : State} {q : DrainDraw} (ha : s.drActive = true) (hi : s.drI = s.drN)
    (hq : q.apart = true) (hh : s.rxHead ≠ s.drSnap) : drainStep q s = .next (headWrite s) := by
  simp [drainStep, ha, hi, hq, hh]

/-- The commit step otherwise (R108). -/
theorem drainStep_commit {s : State} {q : DrainDraw} (ha : s.drActive = true) (hi : s.drI = s.drN)
    (h : q.apart = false ∨ s.rxHead = s.drSnap) : drainStep q s = drainCommit q.squelch s := by
  rcases h with h | h <;> simp [drainStep, ha, hi, h]

/-! ### The commit step -/

/-- SCRATCH after the gating (R109). -/
def gatedScratch (squelch : Bool) (s : State) : Mem :=
  if squelch then memWriteRun s.scratch 0 (List.replicate s.drN s.cfg.silence) else s.scratch

/-- The bytes the commit step sends (R109, R110). -/
def sentBytes (squelch : Bool) (s : State) : List Byte :=
  if squelch then List.replicate s.drN s.cfg.silence else (List.range s.drN).map (slot s .scratch)

/-- The slots of SCRATCH after the gating. -/
theorem slot_setGatedScratch (squelch : Bool) (s : State) (i : Nat) :
    slot (setArray .scratch (gatedScratch squelch s) s) .scratch i =
      if squelch = true ∧ i < s.drN then s.cfg.silence else slot s .scratch i := by
  cases squelch with
  | false =>
    have hsame : setArray .scratch (gatedScratch false s) s = s := setArray_getArray .scratch s
    simp [hsame]
  | true =>
    have hslot := slot_after_writes .scratch .scratch 0 i (List.replicate s.drN s.cfg.silence) s
    rw [List.length_replicate] at hslot
    by_cases hi : i < s.drN <;> simpa [gatedScratch, getArray, hi] using hslot

/-- The send reads the gated slots. -/
theorem gated_slots_eq_sentBytes (squelch : Bool) (s : State) :
    (List.range s.drN).map (slot (setArray .scratch (gatedScratch squelch s) s) .scratch) = sentBytes squelch s := by
  cases squelch with
  | false => simp [slot_setGatedScratch, sentBytes]
  | true =>
    refine List.eq_replicate_iff.mpr ⟨by simp, fun b hb => ?_⟩
    obtain ⟨i, hi, rfl⟩ := List.mem_map.mp hb
    simp [slot_setGatedScratch, List.mem_range.mp hi]

/-- The state after the commit step (R108 to R110). -/
def committed (squelch : Bool) (s : State) : State :=
  { emit (.hostOut (sentBytes squelch s))
      { recordOp .rxDrain .none s with rxHead := s.drSnap, scratch := gatedScratch squelch s } with
    drActive := false
    loopPhase := .iterStart }

theorem drainCommit_eq {s : State} (squelch : Bool) (h : s.drN < s.cfg.cRx) :
    drainCommit squelch s = .next (committed squelch s) := by
  rw [drainCommit_of_lt squelch h, committed, ← gated_slots_eq_sentBytes]
  cases squelch <;> exact drainSend_of_lt h

@[simp] theorem unlogged_committed (squelch : Bool) (s : State) :
    unlogged (committed squelch s) = unlogged
      { s with
        rxHead := s.drSnap
        drActive := false
        loopPhase := .iterStart
        scratch := gatedScratch squelch s
        hostOut := s.hostOut ++ sentBytes squelch s } := rfl

/-- The commit step after the head write apart differs from the commit step in the history alone (log entry 23). -/
theorem unlogged_committed_headWrite (squelch : Bool) (s : State) :
    unlogged (committed squelch (headWrite s)) = unlogged (committed squelch s) := by
  rw [unlogged_committed, unlogged_committed]
  rfl

@[simp] theorem errorEvents_committed (squelch : Bool) (s : State) :
    errorEvents (committed squelch s) = errorEvents s := by
  simp [committed, errorEvents, Entry.isEvent]

theorem slot_committed (squelch : Bool) (s : State) (i : Nat) :
    slot (committed squelch s) .scratch i =
      if squelch = true ∧ i < s.drN then s.cfg.silence else slot s .scratch i :=
  slot_setGatedScratch squelch s i

/-- Settles O8: the draw picks the head write or the commit step, and the commit sends the gated slots. -/
theorem drainCommitGatesAndSends : Obligations.DrainCommitGatesAndSends := by
  intro s q ha hi hn
  refine ⟨fun hq hh => ?_, fun h => ?_⟩
  · exact ⟨_, drainStep_headWrite ha hi hq hh, rfl, by simp [headWrite, errorEvents, Entry.isEvent]⟩
  · exact ⟨_, (drainStep_commit ha hi h).trans (drainCommit_eq q.squelch hn), unlogged_committed q.squelch s,
      slot_committed q.squelch s, errorEvents_committed q.squelch s⟩

/-! ### Runs of instructions -/

theorem runInstrs_append (is js : List Instr) (s : State) :
    runInstrs (is ++ js) s = andThen (runInstrs is s) (runInstrs js) := by
  induction is generalizing s with
  | nil => rfl
  | cons i is ih =>
    simp only [List.cons_append, runInstrs]
    cases exec i s with
    | next t => exact ih t
    | fault | refused => rfl

theorem runInstrs_singleton (i : Instr) (s : State) : runInstrs [i] s = exec i s := by
  simp only [runInstrs]
  cases exec i s <;> rfl

/-! ### A whole drain -/

theorem memWriteRun_concat (m : Mem) (i : Nat) (bs : List Byte) (b : Byte) :
    memWriteRun m i (bs ++ [b]) = memWrite (memWriteRun m i bs) (i + bs.length) b := by
  induction bs generalizing m i with
  | nil => rfl
  | cons c bs ih => simp [memWriteRun, ih, Nat.add_assoc, Nat.add_comm 1]

/-- The first k bytes of the unsent window (R15, R106). -/
def unsentBytes (k : Nat) (s : State) : List Byte :=
  (List.range k).map fun j => slot s .rxBuf ((s.rxHead + j) % s.cfg.cRx)

@[simp] theorem length_unsentBytes (k : Nat) (s : State) : (unsentBytes k s).length = k := by simp [unsentBytes]

/-- A drain started in s that has copied k bytes, each step with its history entry (R105, R106). -/
def drainedTo (k : Nat) (s : State) : State :=
  { s with
    drSnap := s.rxTail
    drN := unsentCount s
    drI := k
    drActive := true
    scratch := memWriteRun s.scratch 0 (unsentBytes k s)
    history := s.history ++ List.replicate (k + 1) ⟨s.now, .op .rxDrain, .none⟩ }

theorem drainStart_eq {s : State} (h : s.cfg.drainMin ≤ unsentCount s) : drainStart s = drainedTo 0 s :=
  if_neg (Nat.not_lt.mpr h)

theorem drainCopy_drainedTo {s : State} {k : Nat} (h : k + 1 < s.cfg.cRx) :
    drainCopy (drainedTo k s) = .next (drainedTo (k + 1) s) := by
  have hv : slot (drainedTo k s) .rxBuf (drainSlot (drainedTo k s)) = slot s .rxBuf ((s.rxHead + k) % s.cfg.cRx) := rfl
  rw [drainCopy_of_lt (s := drainedTo k s) h, hv]
  simp [drainedTo, unsentBytes, List.range_succ, memWriteRun_concat, List.replicate_succ', recordOp, appendEntry]

/-- After its start and k copy steps, with any draws. -/
theorem runInstrs_drainedTo {s : State} (p : DrainDraw) (hp : s.loopPhase = .rxDrain) (ha : s.drActive = false)
    (hm : s.mode = .receive) (hmin : s.cfg.drainMin ≤ unsentCount s) (hn : unsentCount s < s.cfg.cRx) {k : Nat}
    (hk : k ≤ unsentCount s) :
    runInstrs (List.replicate (k + 1) (.rxDrain p)) s = .next (drainedTo k s) := by
  induction k with
  | zero => rw [List.replicate_one, runInstrs_singleton, ← drainStart_eq hmin]; exact drainStep_start p hp ha hm
  | succ k ih =>
    rw [List.replicate_succ', runInstrs_append, ih (by omega), andThen_next, runInstrs_singleton]
    exact (drainStep_copy (s := drainedTo k s) p rfl hk).trans (drainCopy_drainedTo (by omega))

/-- With every byte copied, either form of the last steps ends as the commit step does, but for the history (R60, R108; log entry
23). -/
theorem runInstrs_last {s : State} {p q : DrainDraw} {last : List Instr} (ha : s.drActive = true) (hi : s.drI = s.drN)
    (hn : s.drN < s.cfg.cRx) (hh : s.rxHead ≠ s.drSnap)
    (hlast : last = [.rxDrain ⟨q.squelch, false⟩] ∨ last = [.rxDrain ⟨p.squelch, true⟩, .rxDrain q]) :
    ∃ t, runInstrs last s = .next t ∧ unlogged t = unlogged (committed q.squelch s) := by
  rcases hlast with rfl | rfl
  · have hcommit : drainStep ⟨q.squelch, false⟩ s = drainCommit q.squelch s := drainStep_commit ha hi (.inl rfl)
    exact ⟨_, (runInstrs_singleton _ s).trans (hcommit.trans (drainCommit_eq _ hn)), rfl⟩
  · have happart : exec (.rxDrain ⟨p.squelch, true⟩) s = .next (headWrite s) := drainStep_headWrite ha hi rfl hh
    have hcommit : drainStep q (headWrite s) = drainCommit q.squelch (headWrite s) := drainStep_commit ha hi (.inr rfl)
    refine ⟨_, ?_, unlogged_committed_headWrite q.squelch s⟩
    rw [runInstrs, happart, andThen_next, runInstrs_singleton]
    exact hcommit.trans (drainCommit_eq (s := headWrite s) _ hn)

/-- The copied bytes are those of the window. -/
theorem map_slot_drainedTo (k : Nat) (s : State) :
    (List.range k).map (slot (drainedTo k s) .scratch) = unsentBytes k s := by
  refine List.map_congr_left fun i hi => ?_
  have hslot := slot_after_writes .scratch .scratch 0 i (unsentBytes k s) s
  have hi := List.mem_range.mp hi
  have hcopied : slot (drainedTo k s) .scratch i =
      slot (setArray .scratch (memWriteRun (getArray s .scratch) 0 (unsentBytes k s)) s) .scratch i := rfl
  rw [hcopied, hslot]
  simp [hi, unsentBytes]

theorem sentBytes_drainedTo (squelch : Bool) (s : State) :
    sentBytes squelch (drainedTo (unsentCount s) s) =
      if squelch then List.replicate (unsentCount s) s.cfg.silence else unsentBytes (unsentCount s) s :=
  congrArg (fun bs => if squelch then List.replicate (unsentCount s) s.cfg.silence else bs) (map_slot_drainedTo _ s)

/-- A drain is worth starting only with a sample unsent (00_scope.md section 3). -/
theorem Inv.rxHead_ne_rxTail {s : State} (h : Inv s) (hmin : s.cfg.drainMin ≤ unsentCount s) : s.rxHead ≠ s.rxTail := by
  intro heq
  have hvalid := h.cfgValid
  have hzero : unsentCount s = 0 := by rw [unsentCount, heq]; exact subMod_self _ _ h.rxTail_lt
  simp only [Config.Params.valid, Bool.and_eq_true, decide_eq_true_eq] at hvalid
  omega

/-- Settles O9: the start and the copies fill SCRATCH with the window, which the last steps send. -/
theorem undisturbedDrainSendsTheUnsentWindow : Obligations.UndisturbedDrainSendsTheUnsentWindow := by
  intro s p q last hs hp ha hm hmin hlast
  have hn : unsentCount s < s.cfg.cRx := subMod_lt hs.cRx_pos
  obtain ⟨t, hrun, ht⟩ :=
    runInstrs_last (s := drainedTo (unsentCount s) s) rfl rfl hn (hs.rxHead_ne_rxTail hmin) hlast
  have hcount : unsentCount (unlogged t) = 0 := by rw [ht]; exact subMod_self _ _ hs.rxTail_lt
  have hscratch : t.scratch = gatedScratch q.squelch (drainedTo (unsentCount s) s) := congrArg State.scratch ht
  refine ⟨t, ?_, ?_, hcount⟩
  · rw [runInstrs_append, runInstrs_drainedTo p hp ha hm hmin hn le_rfl, andThen_next, hrun]
  · rw [ht, unlogged_committed, sentBytes_drainedTo, hscratch]
    simp only [drainedTo, unlogged, ha, unsentBytes]

end Sys2Proof.Machine
end

section
/-! SUPPORT. Whole Receive-mode frames (R67 to R75, R87, R127 to R131): agent L's steps from the frame's arrival to its
command, and the two commands with parameters. -/

namespace Sys2Proof.Machine

/-! ### States that differ in the history -/

/-- Equal but for the history is equal with the history replaced. -/
theorem eq_of_unlogged {s t : State} (h : unlogged s = unlogged t) : s = { t with history := s.history } :=
  congrArg (fun u : State => { u with history := s.history }) h

/-- The state with n entries more for steps of RX.CMD. -/
def recordRxCmds (n : Nat) (s : State) : State :=
  { s with history := s.history ++ List.replicate n ⟨s.now, .op .rxCmd, .none⟩ }

@[simp] theorem errorEvents_recordRxCmds (n : Nat) (s : State) : errorEvents (recordRxCmds n s) = errorEvents s := by
  simp [recordRxCmds, errorEvents, Entry.isEvent]

/-! ### Agent L's steps -/

theorem agentLSteps_succ (n : Nat) (s : State) :
    agentLSteps (n + 1) s = andThen (agentLStep ⟨false, false⟩ s) (agentLSteps n) := rfl

theorem agentLSteps_add (m n : Nat) (s : State) :
    agentLSteps (m + n) s = andThen (agentLSteps m s) (agentLSteps n) := by
  induction m generalizing s with
  | zero => rw [Nat.zero_add]; rfl
  | succ m ih =>
    rw [Nat.succ_add, agentLSteps_succ, agentLSteps_succ]
    cases agentLStep ⟨false, false⟩ s with
    | next t => exact ih t
    | fault | refused => rfl

theorem agentLSteps_succ_rxCmd {s t : State} (n : Nat) (hp : s.loopPhase = .rxCmd) (h : collectorStep s = .next t) :
    agentLSteps (n + 1) s = agentLSteps n t := by
  rw [agentLSteps_succ, agentLStep_rxCmd _ hp, h, andThen_next]

/-! ### The header -/

/-- The state after n header bytes counted, with `rest` left in the FIFO (R128). -/
def headerCounted (n : Nat) (rest : List Byte) (s : State) : State :=
  { recordRxCmds n s with hostIn := rest, rxcCnt := s.rxcCnt + n }

@[simp] theorem headerCounted_loopPhase (n : Nat) (rest : List Byte) (s : State) :
    (headerCounted n rest s).loopPhase = s.loopPhase := rfl

@[simp] theorem collectorStart_loopPhase (s : State) : (collectorStart s).loopPhase = s.loopPhase := rfl

theorem headerCounted_zero (s : State) : headerCounted 0 s.hostIn s = s := by
  simp [headerCounted, recordRxCmds]

theorem headerCounted_headerCounted (m n : Nat) (rest rest' : List Byte) (s : State) :
    headerCounted n rest (headerCounted m rest' s) = headerCounted (m + n) rest s := by
  simp [headerCounted, recordRxCmds, Nat.add_assoc]

theorem collectorStep_hdr {s : State} (hs : s.rxcState = .hdr) : collectorStep s = .next (headerByte s) := by
  simp only [collectorStep, hs]

/-- A header byte before the selector is counted (R128). -/
theorem headerByte_count {s : State} {b : Byte} {rest : List Byte} (hb : s.hostIn = b :: rest) (hc : s.rxcCnt < 8) :
    headerByte s = headerCounted 1 rest s := by
  unfold headerByte
  split
  next h => simp [h] at hb
  next h =>
    obtain ⟨rfl, rfl⟩ := List.cons.inj (h.symm.trans hb)
    simp [hc, hostDrop, hb, headerCounted, recordRxCmds, recordOp, appendEntry]

/-- The ninth byte is the selector (R128). -/
theorem headerByte_select {s : State} {b : Byte} {rest : List Byte} (hb : s.hostIn = b :: rest) (hc : s.rxcCnt = 8) :
    headerByte s = dispatchSelector { recordOp .rxCmd .none s with hostIn := rest, rxcSel := b, rxcCnt := 0 } := by
  unfold headerByte
  split
  next h => simp [h] at hb
  next h =>
    obtain ⟨rfl, rfl⟩ := List.cons.inj (h.symm.trans hb)
    simp [hc, hostDrop, hb]

/-- Agent L counts the bytes before the selector, one a step (R128). -/
theorem agentLSteps_count {s : State} {bs rest : List Byte} (hp : s.loopPhase = .rxCmd) (hs : s.rxcState = .hdr)
    (hb : s.hostIn = bs ++ rest) (hc : s.rxcCnt + bs.length ≤ 8) :
    agentLSteps bs.length s = .next (headerCounted bs.length rest s) := by
  induction bs generalizing s with
  | nil =>
    obtain rfl : s.hostIn = rest := hb
    exact congrArg Host.Outcome.next (headerCounted_zero s).symm
  | cons b bs ih =>
    rw [List.length_cons] at hc ⊢
    have hb : s.hostIn = b :: (bs ++ rest) := hb
    have hstep : collectorStep s = .next (headerCounted 1 (bs ++ rest) s) := by
      rw [collectorStep_hdr hs, headerByte_count hb (by omega)]
    have hrest : (headerCounted 1 (bs ++ rest) s).rxcCnt + bs.length ≤ 8 := by
      simp only [headerCounted]
      omega
    have hbs := ih (s := headerCounted 1 (bs ++ rest) s) hp hs rfl hrest
    rw [agentLSteps_succ_rxCmd _ hp hstep, hbs, headerCounted_headerCounted, Nat.add_comm 1]

/-- The state in which the selector of a header is dispatched: its bytes read in 10 steps (R127, R128). -/
def headerRead (sel : Byte) (ps : List Byte) (s : State) : State :=
  { recordRxCmds 10 s with rxcState := .hdr, hostIn := ps, rxcSel := sel, rxcCnt := 0 }

/-- The start step, the 8 bytes that are not compared and the selector (R71, R127, R128). -/
theorem agentLSteps_header {s : State} {pre : BitVec 64} {sel : Byte} {ps : List Byte} (n : Nat)
    (hp : s.loopPhase = .rxCmd) (hs : s.rxcState = .idle) (hb : s.hostIn = bytesOf64 pre ++ sel :: ps) :
    agentLSteps (10 + n) s = agentLSteps n (dispatchSelector (headerRead sel ps s)) := by
  have hstart : collectorStep s = .next (collectorStart s) := by simp only [collectorStep, hs, hp, if_true]
  have hlen : (bytesOf64 pre).length = 8 := rfl
  have hcount := agentLSteps_count (s := collectorStart s) hp rfl hb (by simp [hlen, collectorStart])
  rw [hlen] at hcount
  have hselect : collectorStep (headerCounted 8 (sel :: ps) (collectorStart s)) =
      .next (dispatchSelector (headerRead sel ps s)) := by
    rw [collectorStep_hdr rfl,
      headerByte_select (s := headerCounted 8 (sel :: ps) (collectorStart s)) (b := sel) (rest := ps) rfl rfl]
    simp [headerRead, headerCounted, recordRxCmds, collectorStart, recordOp, appendEntry, List.replicate_succ]
  rw [show 10 + n = 8 + (n + 1) + 1 by omega, agentLSteps_succ_rxCmd _ hp hstart, agentLSteps_add, hcount, andThen_next,
    agentLSteps_succ_rxCmd n (by simp [hp]) hselect]

/-! ### The frame's arrival -/

/-- The iteration start, where one is about to start (R160). -/
def startedIteration (s : State) : State := if s.loopPhase = .iterStart then iterStart s else s

theorem takeFrame_eq (n : Nat) (s : State) : takeFrame n s = agentLSteps n (startedIteration s) := by
  unfold takeFrame startedIteration
  by_cases hp : s.loopPhase = .iterStart
  · simp only [hp, if_true, agentLSteps_succ, agentLStep, andThen_next]
  · simp only [hp, if_false]

theorem kickedFirst_iterStart {s : State} (hp : s.loopPhase = .iterStart) :
    kickedFirst s = { s with wdtLast := s.now, wdtKick := s.wdtKick ++ [s.now] } := if_pos hp

theorem kickedFirst_rxCmd {s : State} (hp : s.loopPhase = .rxCmd) : kickedFirst s = s := if_neg (by simp [hp])

/-- With a byte in the FIFO a Receive iteration goes on to collect it (R160). -/
theorem iterStart_receive {s : State} (hm : s.mode = .receive) (hb : s.hostIn ≠ []) :
    iterStart s = { kickWatchdog (recordOp .loopIter .none s) with loopPhase := .rxCmd } := by
  have hav : 1 ≤ s.hostIn.length := List.length_pos_iff.mpr hb
  simp [iterStart, hm, hostAvail, hav]

theorem unlogged_startedIteration {s : State} (hm : s.mode = .receive)
    (hp : s.loopPhase = .iterStart ∨ s.loopPhase = .rxCmd) (hb : s.hostIn ≠ []) :
    unlogged (startedIteration s) = unlogged { kickedFirst s with loopPhase := .rxCmd } := by
  unfold startedIteration
  rcases hp with hp | hp
  · rw [if_pos hp, iterStart_receive hm hb, kickedFirst_iterStart hp]
    simp [unlogged]
  · rw [if_neg (by simp [hp]), kickedFirst_rxCmd hp, ← hp]

theorem errorEvents_startedIteration (s : State) : errorEvents (startedIteration s) = errorEvents s := by
  unfold startedIteration
  split
  · simp [iterStart, errorEvents, Entry.isEvent]
  · rfl

@[simp] theorem kickedFirst_mode (s : State) : (kickedFirst s).mode = s.mode := by unfold kickedFirst; split <;> rfl
@[simp] theorem kickedFirst_rxcState (s : State) : (kickedFirst s).rxcState = s.rxcState := by
  unfold kickedFirst; split <;> rfl
@[simp] theorem kickedFirst_hostIn (s : State) : (kickedFirst s).hostIn = s.hostIn := by
  unfold kickedFirst; split <;> rfl
@[simp] theorem kickedFirst_now (s : State) : (kickedFirst s).now = s.now := by unfold kickedFirst; split <;> rfl
@[simp] theorem kickedFirst_radio (s : State) : (kickedFirst s).radio = s.radio := by unfold kickedFirst; split <;> rfl
@[simp] theorem kickedFirst_rxcPbuf (s : State) : (kickedFirst s).rxcPbuf = s.rxcPbuf := by
  unfold kickedFirst; split <;> rfl
@[simp] theorem kickedFirst_arrayEpoch (s : State) : (kickedFirst s).arrayEpoch = s.arrayEpoch := by
  unfold kickedFirst; split <;> rfl

@[simp] theorem hostAppendAll_mode (bs : List Byte) (s : State) : (hostAppendAll bs s).mode = s.mode := by
  rw [hostAppendAll_eq]

@[simp] theorem hostAppendAll_loopPhase (bs : List Byte) (s : State) : (hostAppendAll bs s).loopPhase = s.loopPhase := by
  rw [hostAppendAll_eq]

@[simp] theorem hostAppendAll_hostIn (bs : List Byte) (s : State) : (hostAppendAll bs s).hostIn = s.hostIn ++ bs := by
  rw [hostAppendAll_eq]

/-- The state in which agent L is about to collect a frame, but for the history (R41, R160). -/
def readyToCollect (bs : List Byte) (s : State) : State := { kickedFirst s with loopPhase := .rxCmd, hostIn := bs }

/-- The state in which agent L collects a frame that has just arrived: its bytes in the FIFO, the iteration started (R41,
R160). -/
def frameArrived (bs : List Byte) (s : State) : State := startedIteration (hostAppendAll bs s)

/-- A Receive frame that agent L reads next is collected at once (R87; log entry 14). -/
theorem takeReceiveFrame_taken {s : State} (r : Request) (n : Nat) (hm : s.mode = .receive)
    (hp : s.loopPhase = .iterStart ∨ s.loopPhase = .rxCmd) (hs : s.rxcState = .idle) (hb : s.hostIn = []) :
    takeReceiveFrame r n s = agentLSteps n (frameArrived r.bytes s) := by
  have hat : atReceiveCommand s = true := by
    rcases hp with hp | hp <;> simp [atReceiveCommand, hm, hp, hs, hb]
  unfold takeReceiveFrame
  rw [if_pos hat]
  exact takeFrame_eq n _

theorem kickedFirst_hostAppendAll {s : State} (bs : List Byte) (hp : s.loopPhase = .iterStart ∨ s.loopPhase = .rxCmd) :
    unlogged (kickedFirst (hostAppendAll bs s)) = unlogged { kickedFirst s with hostIn := s.hostIn ++ bs } := by
  rcases hp with hp | hp
  · rw [kickedFirst_iterStart (by simpa using hp), kickedFirst_iterStart hp, hostAppendAll_eq]
    simp [unlogged]
  · rw [kickedFirst_rxCmd (by simpa using hp), kickedFirst_rxCmd hp, hostAppendAll_eq]
    simp [unlogged]

theorem unlogged_frameArrived {s : State} {bs : List Byte} (hm : s.mode = .receive)
    (hp : s.loopPhase = .iterStart ∨ s.loopPhase = .rxCmd) (hb : s.hostIn = []) (hbs : bs ≠ []) :
    unlogged (frameArrived bs s) = unlogged (readyToCollect bs s) := by
  have hkick := kickedFirst_hostAppendAll bs hp
  rw [hb, List.nil_append] at hkick
  rw [frameArrived, unlogged_startedIteration (by simpa using hm) (by simpa using hp) (by simp [hbs])]
  exact congrArg (fun u : State => { u with loopPhase := .rxCmd }) hkick

theorem errorEvents_frameArrived (bs : List Byte) (s : State) : errorEvents (frameArrived bs s) = errorEvents s := by
  rw [frameArrived, errorEvents_startedIteration, errorEvents_hostAppendAll]

/-! ### The parameters -/

/-- The state in which the command of a frame with parameters runs: its bytes read and stored (R128, R129, R131). -/
def paramsCollected (sel : Byte) (ps : List Byte) (s : State) : State :=
  { recordRxCmds 11 s with
    rxcState := .param
    rxcSel := sel
    rxcCnt := 0
    rxcT0 := s.now
    hostIn := []
    rxcPbuf := memWriteRun s.rxcPbuf 0 ps }

theorem dispatchSelector_params {s : State} (h : s.rxcSel = 3 ∨ s.rxcSel = 4) :
    dispatchSelector s = beginParams s := by
  rcases h with h | h <;> simp [dispatchSelector, rxSelector, h]

theorem agentLSteps_one_rxCmd {s : State} (hp : s.loopPhase = .rxCmd) : agentLSteps 1 s = collectorStep s := by
  rw [agentLSteps_succ, agentLStep_rxCmd _ hp]
  cases collectorStep s <;> rfl

theorem collectorStep_param {s : State} (hs : s.rxcState = .param) : collectorStep s = paramStep s := by
  simp only [collectorStep, hs]

/-- Eleven steps of agent L collect a frame with parameters; the last one runs its command (R127 to R131). -/
theorem agentLSteps_params {s : State} {pre : BitVec 64} {sel : Byte} {ps : List Byte}
    (hp : s.loopPhase = .rxCmd) (hs : s.rxcState = .idle) (hb : s.hostIn = bytesOf64 pre ++ sel :: ps)
    (hsel : sel = 3 ∨ sel = 4) (hlen : ps.length = if sel = 3 then 17 else 3) :
    agentLSteps 11 s =
      andThen (runParamCommand (paramsCollected sel ps s)) fun t => .next (completeCommand t) := by
  have hwanted : paramsWanted (beginParams (headerRead sel ps s)) = ps.length := hlen.symm
  have hav : paramsAvailable (beginParams (headerRead sel ps s)) = true := decide_eq_true hwanted.le
  have hstored : setArray .rxcPbuf
        (memWriteRun (beginParams (headerRead sel ps s)).rxcPbuf 0
          ((beginParams (headerRead sel ps s)).hostIn.take ps.length))
        (hostDrop ps.length (recordOp .rxCmd .none (beginParams (headerRead sel ps s)))) =
      paramsCollected sel ps s := by
    simp [paramsCollected, headerRead, beginParams, recordRxCmds, hostDrop, setArray, recordOp, appendEntry,
      List.replicate_succ]
  have hphase : (beginParams (headerRead sel ps s)).loopPhase = .rxCmd := hp
  rw [agentLSteps_header 1 hp hs hb, dispatchSelector_params hsel, agentLSteps_one_rxCmd hphase, collectorStep_param rfl,
    paramStep_available hav, hwanted, hstored]

/-! ### The commands -/

/-- The slots of RXC_PBUF hold the parameters by position (R131). -/
theorem slot_paramsCollected (sel : Byte) (ps : List Byte) (s : State) (j : Nat) :
    slot (paramsCollected sel ps s) .rxcPbuf j = if j < ps.length then ps.getD j 0 else slot s .rxcPbuf j := by
  have hsame : slot (paramsCollected sel ps s) .rxcPbuf j =
      slot (setArray .rxcPbuf (memWriteRun (getArray s .rxcPbuf) 0 ps) s) .rxcPbuf j := slot_congr rfl rfl j
  rw [hsame, slot_after_writes]
  simp

theorem map_getD_range (bs : List Byte) {i n : Nat} (h : i + n ≤ bs.length) :
    ((List.range n).map fun k => bs.getD (i + k) 0) = (bs.drop i).take n := by
  refine List.ext_getElem (by simp; omega) fun k hk hk' => ?_
  simp only [List.length_map, List.length_range] at hk
  simp [List.getElem?_eq_getElem (show i + k < bs.length by omega)]

/-- A field of the parameters, by position (R73). -/
theorem field_paramsCollected (sel : Byte) {ps : List Byte} (s : State) {i n : Nat} (h : i + n ≤ ps.length) :
    ((List.range n).map fun k => slot (paramsCollected sel ps s) .rxcPbuf (i + k)) = (ps.drop i).take n := by
  rw [← map_getD_range ps h]
  refine List.map_congr_left fun k hk => ?_
  have hk := List.mem_range.mp hk
  rw [slot_paramsCollected, if_pos (by omega)]

theorem TuneParams.length_bytes {p : TuneParams} (h : p.wellFormed = true) : p.bytes.length = 17 := by
  simp only [TuneParams.wellFormed, Bool.and_eq_true, beq_iff_eq] at h
  simp [TuneParams.bytes, h]

/-- The fields stand in the 17 bytes by position (R69). -/
theorem TuneParams.fields_bytes {p : TuneParams} (h : p.wellFormed = true) :
    (p.bytes.drop 0).take 7 = p.tx ∧ (p.bytes.drop 7).take 7 = p.rx ∧ (p.bytes.drop 14).take 2 = p.tone ∧
      p.bytes.getD 16 0 = p.sq := by
  simp only [TuneParams.wellFormed, Bool.and_eq_true, beq_iff_eq] at h
  obtain ⟨⟨htx, hrx⟩, htone⟩ := h
  have hpast : p.tx.drop 14 = [] := List.drop_eq_nil_of_le (by omega)
  simp [TuneParams.bytes, htx, hrx, htone, hpast, List.drop_append]

/-- TUNE_TO on the collected bytes of its fields requests those fields (R136). -/
theorem runParamCommand_tuneTo {p : TuneParams} (h : p.wellFormed = true) (s : State) :
    runParamCommand (paramsCollected 3 p.bytes s) =
      .next (emit (.radio (.tune p.tx p.rx p.tone p.sq))
        (enterRx (recordOp .cmdTuneTo .none (paramsCollected 3 p.bytes s)))) := by
  have hlen := TuneParams.length_bytes h
  obtain ⟨htx, hrx, htone, hsq⟩ := TuneParams.fields_bytes h
  have hrun : runParamCommand (paramsCollected 3 p.bytes s) = tuneTo (paramsCollected 3 p.bytes s) := if_pos rfl
  rw [hrun, tuneTo_eq, field_paramsCollected _ _ (by omega), field_paramsCollected _ _ (by omega),
    field_paramsCollected _ _ (by omega), slot_paramsCollected, if_pos (by omega), htx, hrx, htone, hsq]

theorem filterFlag_eq (b : Byte) : filterFlag b = decide (b = 0x31) := rfl

/-- FILTERS on its collected bytes requests their flags and the bytes (R138). -/
theorem runParamCommand_filters (p : FilterParams) (s : State) :
    runParamCommand (paramsCollected 4 p.bytes s) =
      .next (emit (.radio (.filters (filterFlag p.emph) (filterFlag p.hpf) (filterFlag p.lpf) [p.emph, p.hpf, p.lpf]))
        (recordOp .cmdFilters .none (paramsCollected 4 p.bytes s))) := by
  have hrun : runParamCommand (paramsCollected 4 p.bytes s) = setFilters (paramsCollected 4 p.bytes s) :=
    if_neg (by simp [paramsCollected])
  rw [hrun, setFilters_eq]
  simp [slot_paramsCollected, FilterParams.bytes]

/-! ### A whole frame with parameters -/

/-- What a frame with parameters does up to its command (R87, R127 to R131). -/
theorem takeReceiveFrame_params {s : State} {pre : BitVec 64} {sel : Byte} {ps : List Byte} (hm : s.mode = .receive)
    (hp : s.loopPhase = .iterStart ∨ s.loopPhase = .rxCmd) (hs : s.rxcState = .idle) (hb : s.hostIn = [])
    (hsel : sel = 3 ∨ sel = 4) (hlen : ps.length = if sel = 3 then 17 else 3) :
    ∃ u, unlogged u = unlogged (readyToCollect (bytesOf64 pre ++ sel :: ps) s) ∧
      errorEvents u = errorEvents s ∧
      takeReceiveFrame (rxFrameRequest pre sel ps) 11 s =
        andThen (runParamCommand (paramsCollected sel ps u)) fun t => .next (completeCommand t) := by
  have hu := unlogged_frameArrived (bs := bytesOf64 pre ++ sel :: ps) hm hp hb (by simp)
  have hevents := errorEvents_frameArrived (bytesOf64 pre ++ sel :: ps) s
  have htaken : takeReceiveFrame (rxFrameRequest pre sel ps) 11 s =
      agentLSteps 11 (frameArrived (bytesOf64 pre ++ sel :: ps) s) := takeReceiveFrame_taken _ _ hm hp hs hb
  generalize frameArrived (bytesOf64 pre ++ sel :: ps) s = u at hu hevents htaken
  have hphase : u.loopPhase = .rxCmd := by simpa [readyToCollect] using congrArg State.loopPhase hu
  have hidle : u.rxcState = .idle := by simpa [readyToCollect, hs] using congrArg State.rxcState hu
  have hbytes : u.hostIn = bytesOf64 pre ++ sel :: ps := by simpa [readyToCollect] using congrArg State.hostIn hu
  exact ⟨u, hu, hevents, htaken.trans (agentLSteps_params hphase hidle hbytes hsel hlen)⟩

/-- The slots of RXC_PBUF after a frame with parameters. -/
theorem slot_paramsCollected_of_unlogged {s u : State} {bs : List Byte} (sel : Byte) (ps : List Byte)
    (hu : unlogged u = unlogged (readyToCollect bs s)) (j : Nat) :
    slot (paramsCollected sel ps u) .rxcPbuf j = if j < ps.length then ps.getD j 0 else slot s .rxcPbuf j := by
  have hpbuf : u.rxcPbuf = s.rxcPbuf := by simpa [readyToCollect] using congrArg State.rxcPbuf hu
  have hepoch : u.arrayEpoch = s.arrayEpoch := by simpa [readyToCollect] using congrArg State.arrayEpoch hu
  rw [slot_paramsCollected, slot_congr (a := .rxcPbuf) hpbuf hepoch]

@[simp] theorem errorEvents_completeCommand (s : State) : errorEvents (completeCommand s) = errorEvents s := rfl

@[simp] theorem errorEvents_paramsCollected (sel : Byte) (ps : List Byte) (s : State) :
    errorEvents (paramsCollected sel ps s) = errorEvents s :=
  errorEvents_recordRxCmds 11 s

/-- Settles O26: the collected bytes are those of the fields, and the command forwards them. -/
theorem tuneToFrameForwardsItsFields : Obligations.TuneToFrameForwardsItsFields := by
  intro s pre p hm hp hs hb hwf
  have hlen := TuneParams.length_bytes hwf
  obtain ⟨u, hu, hevents, hrun⟩ := takeReceiveFrame_params (pre := pre) hm hp hs hb (.inl rfl) hlen
  rw [runParamCommand_tuneTo hwf, andThen_next] at hrun
  refine ⟨_, hrun, ?_, fun j => ?_, by simp [hevents]⟩
  · obtain ⟨h, rfl⟩ : ∃ h, u = { readyToCollect _ s with history := h } := ⟨_, eq_of_unlogged hu⟩
    simp [unlogged, readyToCollect, paramsCollected, recordRxCmds, Emission.hostBytes, Emission.requests, Emission.samples,
      Emission.kicks, hm, hb]
  · have hslot := slot_paramsCollected_of_unlogged 3 p.bytes hu j
    rw [hlen] at hslot
    exact (slot_congr (by simp [getArray]) (by simp) j).trans hslot

/-- Settles O27: the collected bytes are the three raw bytes, and the command forwards them with their flags. -/
theorem filtersFrameForwardsItsFlags : Obligations.FiltersFrameForwardsItsFlags := by
  intro s pre p hm hp hs hb
  obtain ⟨u, hu, hevents, hrun⟩ := takeReceiveFrame_params (pre := pre) hm hp hs hb (.inr rfl) (ps := p.bytes) rfl
  rw [runParamCommand_filters, andThen_next] at hrun
  refine ⟨_, hrun, ?_, fun j => ?_, by simp [hevents]⟩
  · obtain ⟨h, rfl⟩ : ∃ h, u = { readyToCollect _ s with history := h } := ⟨_, eq_of_unlogged hu⟩
    simp [unlogged, readyToCollect, paramsCollected, recordRxCmds, Emission.hostBytes, Emission.requests, Emission.samples,
      Emission.kicks, filterFlag_eq, hm, hb]
  · exact (slot_congr (by simp [getArray]) (by simp) j).trans (slot_paramsCollected_of_unlogged 4 p.bytes hu j)

end Sys2Proof.Machine
end

section
/-! SUPPORT. Decoding and encoding are inverse (R67 to R76, R80 to R82, R88): each reader of operand bytes is inverse to its
writer, so the two codes of a whole instruction are. -/

namespace Sys2Proof

/-! ### Operation ids (R80 to R82) -/

/-- An id names the operation that has it, and no other. -/
theorem opOfId_eq_some {b : Byte} {op : OpName} (h : opOfId b = some op) : op.id = b := by
  unfold opOfId at h
  split at h <;> cases h
  all_goals exact BitVec.eq_of_toNat_eq (Eq.symm ‹_›)

/-- The ids of R80 and R81. -/
def listedIds : List Byte :=
  [0x01, 0x10, 0x11, 0x12, 0x20, 0x30, 0x31, 0x32, 0x33, 0x34, 0x35, 0x40, 0x41, 0x42, 0x43, 0x44, 0x50, 0x51,
    0x52, 0x60, 0x61, 0x70, 0xE0, 0xE1, 0xE2]

theorem id_mem_listedIds (op : OpName) : op.id ∈ listedIds := by cases op <;> decide

/-- An id outside the tables names no operation (R82). -/
theorem opOfId_unlisted {b : Byte} (h : b ∉ listedIds) : opOfId b = none := by
  cases hop : opOfId b with
  | none => rfl
  | some op => exact absurd (opOfId_eq_some hop ▸ id_mem_listedIds op) h

theorem decodeOp_unlisted {b : Byte} (h : b ∉ listedIds) (bs : List Byte) :
    decodeOp (b :: bs) = .error (.unknownId b) := by
  simp only [decodeOp, opOfId_unlisted h]

theorem decode_opRequest (op : OpName) (bs : List Byte) : decode (opRequest op bs) = decodeOperands op bs := by
  simp only [decode, opRequest, decodeOp, opOfId_id]

/-- What the decoder reads from an operation id is one operation with its operand bytes. -/
theorem decodeOp_eq_ok {bs : List Byte} {i : Instr} (h : decodeOp bs = .ok i) :
    ∃ op operands, opRequest op operands = ⟨.opid, bs⟩ ∧ decodeOperands op operands = .ok i := by
  unfold decodeOp at h
  split at h
  · cases h
  next id operands =>
    split at h
    · cases h
    next op hop => exact ⟨op, operands, by rw [opRequest, opOfId_eq_some hop], h⟩

/-! ### Operand bytes (log entry 9) -/

theorem bare_eq_ok {op : OpName} {i j : Instr} {bs : List Byte} (h : bare op i bs = .ok j) : bs = [] ∧ i = j := by
  cases bs <;> simp_all [bare]

theorem withOperand_eq_ok {op : OpName} {o : Option Instr} {j : Instr} (h : withOperand op o = .ok j) : o = some j := by
  cases o <;> simp_all [withOperand]

/-- An operand read from the bytes of an operation. -/
theorem withOperand_map_eq_ok {α : Type} {op : OpName} {o : Option α} {f : α → Instr} {j : Instr}
    (h : withOperand op (o.map f) = .ok j) : ∃ a, o = some a ∧ f a = j :=
  Option.map_eq_some_iff.mp (withOperand_eq_ok h)

/-- Eight bytes are those of the value they make (R88). -/
theorem bytesOf64_ofBytes64 (b0 b1 b2 b3 b4 b5 b6 b7 : Byte) :
    bytesOf64 (ofBytes64 b0 b1 b2 b3 b4 b5 b6 b7) = [b0, b1, b2, b3, b4, b5, b6, b7] := by
  simp only [bytesOf64, ofBytes64, List.cons.injEq, and_true]
  refine ⟨?_, ?_, ?_, ?_, ?_, ?_, ?_, ?_⟩
  all_goals
    apply BitVec.eq_of_getLsbD_eq
    intro i hi
    simp only [BitVec.getLsbD_extractLsb', BitVec.getLsbD_append]
    grind

theorem read64_eq_some {bs : List Byte} {v : BitVec 64} (h : read64 bs = some v) : bytesOf64 v = bs := by
  unfold read64 at h
  split at h
  · cases h
    exact bytesOf64_ofBytes64 ..
  · cases h

theorem decodeDrain_eq_some {bs : List Byte} {q : DrainDraw} (h : decodeDrain bs = some q) : encodeDrain q = bs := by
  unfold decodeDrain at h
  split at h
  · repeat' split at h
    all_goals cases h
    all_goals subst_vars; rfl
  · cases h

theorem decodeSample_eq_some {bs : List Byte} {d : SampleRead} (h : decodeSample bs = some d) : encodeSample d = bs := by
  unfold decodeSample at h
  split at h
  next k v =>
    split at h
    next hk => cases h; rw [hk]; rfl
    · split at h
      next hkv => cases h; rw [hkv.1, hkv.2]; rfl
      · cases h
  · cases h

theorem decodeReset_encode {d : ResetDraw} (h : d.drop < 2 ^ 64) : decodeReset (encodeReset d) = some d := by
  rw [encodeReset, decodeReset, read64_bytesOf64, Option.map_some, BitVec.toNat_ofNat, Nat.mod_eq_of_lt h]

theorem decodeReset_eq_some {bs : List Byte} {d : ResetDraw} (h : decodeReset bs = some d) :
    d.drop < 2 ^ 64 ∧ encodeReset d = bs := by
  unfold decodeReset at h
  split at h
  next so rest =>
    obtain ⟨v, hv, rfl⟩ := Option.map_eq_some_iff.mp h
    refine ⟨v.isLt, ?_⟩
    rw [encodeReset, BitVec.ofNat_toNat, BitVec.setWidth_eq, read64_eq_some hv]
  · cases h

/-- An advance is at least 1, so the amount less 1 has room (R40). -/
theorem decodeAdvance_bytesOf64 {d : Time} (h : d ≠ 0) : decodeAdvance (bytesOf64 (d - 1)) = some d := by
  rw [decodeAdvance, read64_bytesOf64, Option.bind_some, BitVec.sub_add_cancel, if_neg h]

theorem decodeAdvance_eq_some {bs : List Byte} {d : Time} (h : decodeAdvance bs = some d) :
    d ≠ 0 ∧ bytesOf64 (d - 1) = bs := by
  obtain ⟨v, hv, h⟩ := Option.bind_eq_some_iff.mp h
  split at h
  · cases h
  next hne =>
    cases h
    exact ⟨hne, by rw [BitVec.add_sub_cancel, read64_eq_some hv]⟩

theorem decodePayload_of_ne_nil {p : List Byte} (h : p ≠ []) : decodePayload p = some (.txIngest p) := by
  cases p with
  | nil => exact absurd rfl h
  | cons b bs => rfl

theorem decodePayload_eq_some {p : List Byte} {i : Instr} (h : decodePayload p = some i) :
    i = .txIngest p ∧ p ≠ [] := by
  cases p with
  | nil => cases h
  | cons b bs => cases h; exact ⟨rfl, List.cons_ne_nil b bs⟩

theorem decodeTxIgnored_eq_some {bs : List Byte} {i : Instr} (h : decodeTxIgnored bs = some i) :
    ∃ b, bs = [b] ∧ i = .cmdTxIgnore b ∧ ignoredInTransmit b = true := by
  unfold decodeTxIgnored at h
  split at h
  · split at h <;> cases h
    next b hb => exact ⟨b, rfl, rfl, hb⟩
  · cases h

theorem decodeHostByte_eq_some {bs : List Byte} {i : Instr} (h : decodeHostByte bs = some i) :
    ∃ b, bs = [b] ∧ i = .envHostByte b := by
  unfold decodeHostByte at h
  split at h <;> cases h
  exact ⟨_, rfl, rfl⟩

/-- The operand bytes of an operation are those of the instruction read from them. -/
theorem decodeOperands_eq_ok {op : OpName} {bs : List Byte} {i : Instr} (h : decodeOperands op bs = .ok i) :
    i.wellFormed = true ∧ encode i = opRequest op bs := by
  cases op with
  | timerStrobe | tickTx | rxCmd | cmdPttDown | cmdTuneTo | cmdFilters | cmdIgnore | cmdAbandon | txScan | txSwap
  | cmdPttUp | modeEnterTx | modeEnterRx | guardCheck | wdtKick =>
    obtain ⟨rfl, rfl⟩ := bare_eq_ok h
    exact ⟨rfl, rfl⟩
  | tick | tickRx =>
    obtain ⟨d, hd, rfl⟩ := withOperand_map_eq_ok h
    exact ⟨rfl, congrArg (opRequest _) (decodeSample_eq_some hd)⟩
  | rxDrain | loopIter =>
    obtain ⟨q, hq, rfl⟩ := withOperand_map_eq_ok h
    exact ⟨rfl, congrArg (opRequest _) (decodeDrain_eq_some hq)⟩
  | reset | envWdtExpire =>
    obtain ⟨d, hd, rfl⟩ := withOperand_map_eq_ok h
    obtain ⟨hdrop, hbytes⟩ := decodeReset_eq_some hd
    exact ⟨decide_eq_true hdrop, congrArg (opRequest _) hbytes⟩
  | envTime =>
    obtain ⟨d, hd, rfl⟩ := withOperand_map_eq_ok h
    obtain ⟨hne, hbytes⟩ := decodeAdvance_eq_some hd
    exact ⟨bne_iff_ne.mpr hne, congrArg (opRequest _) hbytes⟩
  | txIngest =>
    obtain ⟨rfl, hne⟩ := decodePayload_eq_some (withOperand_eq_ok h)
    exact ⟨by simpa [Instr.wellFormed] using hne, rfl⟩
  | cmdTxIgnore =>
    obtain ⟨b, rfl, rfl, hb⟩ := decodeTxIgnored_eq_some (withOperand_eq_ok h)
    exact ⟨hb, rfl⟩
  | envHostByte =>
    obtain ⟨b, rfl, rfl⟩ := decodeHostByte_eq_some (withOperand_eq_ok h)
    exact ⟨rfl, rfl⟩

/-! ### Receive-mode frames (R67 to R71, R74, R75) -/

theorem rxSelector_eq_pttDown {sel : Byte} (h : rxSelector sel = .pttDown) : sel = 1 := by
  unfold rxSelector at h
  split_ifs at h
  assumption

theorem rxSelector_eq_tuneTo {sel : Byte} (h : rxSelector sel = .tuneTo) : sel = 3 := by
  unfold rxSelector at h
  split_ifs at h
  assumption

theorem rxSelector_eq_filters {sel : Byte} (h : rxSelector sel = .filters) : sel = 4 := by
  unfold rxSelector at h
  split_ifs at h
  assumption

theorem ignoredInReceive_of_rxSelector {sel : Byte} (h : rxSelector sel = .ignore) : ignoredInReceive sel = true := by
  unfold rxSelector at h
  split_ifs at h with h1 h3 h4
  simpa [ignoredInReceive] using ⟨⟨h1, h3⟩, h4⟩

/-- The last byte is what is left behind all the others. -/
theorem singleton_last {bs : List Byte} {n : Nat} (h : bs.length = n + 1) : [bs.getD n 0] = bs.drop n := by
  rw [List.getD_eq_getElem _ _ (by omega), List.drop_eq_getElem_cons (by omega), List.drop_eq_nil_of_le (by omega)]

/-- The 17 bytes of the fields read from 17 bytes are those bytes (R69). -/
theorem bytes_tuneParamsOf {ps : List Byte} (h : ps.length = 17) :
    (tuneParamsOf ps).wellFormed = true ∧ (tuneParamsOf ps).bytes = ps := by
  refine ⟨by simp [TuneParams.wellFormed, tuneParamsOf, h], ?_⟩
  calc ps.take 7 ++ (ps.drop 7).take 7 ++ (ps.drop 14).take 2 ++ [ps.getD 16 0]
      = ps.take (7 + 7 + 2) ++ ps.drop 16 := by rw [singleton_last h, List.take_add, List.take_add]
    _ = ps := List.take_append_drop 16 ps

theorem bytes_filterParamsOf {ps : List Byte} (h : ps.length = 3) :
    FilterParams.bytes ⟨ps.getD 0 0, ps.getD 1 0, ps.getD 2 0⟩ = ps := by
  match ps, h with
  | [_, _, _], _ => rfl

/-- The instruction of a Receive-mode frame whose selector selects the command (R68, R75). -/
def receiveInstr (pre : BitVec 64) (sel : Byte) (ps : List Byte) : RxCommand → Instr
  | .pttDown => .framePttDown pre
  | .tuneTo => .frameTuneTo pre (tuneParamsOf ps)
  | .filters => .frameFilters pre ⟨ps.getD 0 0, ps.getD 1 0, ps.getD 2 0⟩
  | .ignore => .frameIgnore pre sel

/-- With the selector's number of parameter bytes a frame decodes to its command (R74). -/
theorem decode_rxFrameRequest (pre : BitVec 64) {sel : Byte} {ps : List Byte}
    (h : ps.length = (rxSelector sel).paramCount) :
    decode (rxFrameRequest pre sel ps) = .ok (receiveInstr pre sel ps (rxSelector sel)) := by
  simp only [decode, rxFrameRequest, bytesOf64, List.cons_append, List.nil_append, decodeRxFrame, ofBytes64_extract,
    if_pos h]
  cases rxSelector sel <;> rfl

theorem decodeRxFrame_eq_ok {bs : List Byte} {i : Instr} (h : decodeRxFrame bs = .ok i) :
    ∃ pre sel ps, rxFrameRequest pre sel ps = ⟨.rxFrame, bs⟩ ∧ ps.length = (rxSelector sel).paramCount ∧
      receiveInstr pre sel ps (rxSelector sel) = i := by
  unfold decodeRxFrame at h
  split at h
  next b0 b1 b2 b3 b4 b5 b6 b7 sel ps =>
    dsimp only at h
    split at h
    next hlen =>
      refine ⟨ofBytes64 b0 b1 b2 b3 b4 b5 b6 b7, sel, ps, by rw [rxFrameRequest, bytesOf64_ofBytes64]; rfl, hlen, ?_⟩
      cases hsel : rxSelector sel <;> rw [hsel] at h <;> exact Except.ok.inj h
    · cases h
  · cases h

/-- The instruction of a frame is encoded by that frame. -/
theorem encode_receiveInstr (pre : BitVec 64) {sel : Byte} {ps : List Byte}
    (h : ps.length = (rxSelector sel).paramCount) :
    (receiveInstr pre sel ps (rxSelector sel)).wellFormed = true ∧
      encode (receiveInstr pre sel ps (rxSelector sel)) = rxFrameRequest pre sel ps := by
  cases hsel : rxSelector sel <;> rw [hsel] at h
  case pttDown =>
    obtain rfl := rxSelector_eq_pttDown hsel
    obtain rfl := List.eq_nil_of_length_eq_zero h
    exact ⟨rfl, rfl⟩
  case tuneTo =>
    obtain rfl := rxSelector_eq_tuneTo hsel
    obtain ⟨hwf, hbytes⟩ := bytes_tuneParamsOf h
    exact ⟨hwf, congrArg (rxFrameRequest pre 3) hbytes⟩
  case filters =>
    obtain rfl := rxSelector_eq_filters hsel
    exact ⟨rfl, congrArg (rxFrameRequest pre 4) (bytes_filterParamsOf h)⟩
  case ignore =>
    obtain rfl := List.eq_nil_of_length_eq_zero h
    exact ⟨ignoredInReceive_of_rxSelector hsel, rfl⟩

theorem decode_frameTuneTo (pre : BitVec 64) {p : TuneParams} (h : p.wellFormed = true) :
    decode (encode (.frameTuneTo pre p)) = .ok (.frameTuneTo pre p) := by
  rw [encode, decode_rxFrameRequest pre (Machine.TuneParams.length_bytes h), rxSelector_three, receiveInstr,
    tuneParamsOf_bytes h]

theorem decode_frameIgnore (pre : BitVec 64) {sel : Byte} (h : ignoredInReceive sel = true) :
    decode (encode (.frameIgnore pre sel)) = .ok (.frameIgnore pre sel) := by
  have hsel := rxSelector_ignored h
  rw [encode, decode_rxFrameRequest pre (by rw [hsel]; rfl), hsel]
  rfl

/-! ### Transmit-mode frames (R67, R72, R76) -/

theorem decode_frameTxIgnore {sel : Byte} (h : ignoredInTransmit sel = true) :
    decode (encode (.frameTxIgnore sel)) = .ok (.frameTxIgnore sel) := by
  have hsel : sel ≠ pttUpSelector := bne_iff_ne.mp h
  simp [decode, encode, txFrameRequest, decodeTxFrame, Config.delim, hsel]

/-- Nine bytes that begin with the delimiter are the frame of the ninth (R72). -/
theorem txFrameRequest_last {bs : List Byte} (hlen : bs.length = 9) (hdelim : bs.take 8 = Config.delim) :
    txFrameRequest (bs.getD 8 0) = ⟨.txFrame, bs⟩ := by
  rw [txFrameRequest, ← hdelim, singleton_last hlen, List.take_append_drop]

theorem decodeTxFrame_eq_ok {bs : List Byte} {i : Instr} (h : decodeTxFrame bs = .ok i) :
    i.wellFormed = true ∧ encode i = ⟨.txFrame, bs⟩ := by
  unfold decodeTxFrame at h
  split_ifs at h with hlen hdelim hsel
  all_goals
    cases h
    rw [← txFrameRequest_last hlen hdelim]
  · exact ⟨rfl, by rw [hsel]; rfl⟩
  · exact ⟨bne_iff_ne.mpr hsel, rfl⟩

/-! ### Every instruction -/

/-- Settles O44: the operands and the frames read back from the bytes that carry them. -/
theorem decodeOfEncodeIsTheInstruction : Obligations.DecodeOfEncodeIsTheInstruction := by
  intro i hwf
  cases i with
  | timerStrobe | tickTx | rxCmd | cmdPttDown | cmdTuneTo | cmdFilters | cmdIgnore | cmdAbandon | txScan | txSwap
  | cmdPttUp | modeEnterTx | modeEnterRx | guardCheck | wdtKick | envHostByte => exact decode_opRequest _ _
  | tick | tickRx => rw [encode, decode_opRequest, decodeOperands, decodeSample_encode]; rfl
  | rxDrain | loopIter => rw [encode, decode_opRequest, decodeOperands, decodeDrain_encode]; rfl
  | reset d | envWdtExpire d =>
    rw [encode, decode_opRequest, decodeOperands, decodeReset_encode (of_decide_eq_true hwf)]; rfl
  | envTime d =>
    rw [encode, decode_opRequest, decodeOperands, decodeAdvance_bytesOf64 (bne_iff_ne.mp hwf)]; rfl
  | txIngest p =>
    have hne : p ≠ [] := by simpa [Instr.wellFormed] using hwf
    rw [encode, decode_opRequest, decodeOperands, decodePayload_of_ne_nil hne]; rfl
  | cmdTxIgnore b =>
    have hb : ignoredInTransmit b = true := hwf
    rw [encode, decode_opRequest, decodeOperands, decodeTxIgnored, if_pos hb]; rfl
  | framePttDown pre => exact decode_rxFrameRequest pre (ps := []) rfl
  | frameTuneTo pre p => exact decode_frameTuneTo pre hwf
  | frameFilters pre p => exact decode_rxFrameRequest pre (ps := p.bytes) rfl
  | frameIgnore pre sel => exact decode_frameIgnore pre hwf
  | framePttUp => exact rfl
  | frameTxIgnore sel => exact decode_frameTxIgnore hwf

/-- Settles O45, one lemma for each format. -/
theorem encodeOfDecodeIsTheRequest : Obligations.EncodeOfDecodeIsTheRequest := by
  intro ⟨format, bytes⟩ i h
  cases format with
  | opid =>
    obtain ⟨op, operands, hrequest, hoperands⟩ := decodeOp_eq_ok h
    rw [← hrequest]
    exact decodeOperands_eq_ok hoperands
  | rxFrame =>
    obtain ⟨pre, sel, ps, hrequest, hlen, rfl⟩ := decodeRxFrame_eq_ok h
    rw [← hrequest]
    exact encode_receiveInstr pre hlen
  | txFrame => exact decodeTxFrame_eq_ok h

/-! ### Wire frames (R68 to R70, R84) -/

/-- Settles O47: the wire bytes are the encodings of the four commands. -/
theorem wireFramesDecodeToTheirCommands : Obligations.WireFramesDecodeToTheirCommands :=
  ⟨decodeOfEncodeIsTheInstruction (.framePttDown 0xFF00FF00FF00FF00) rfl,
    decodeOfEncodeIsTheInstruction .framePttUp rfl,
    decodeOfEncodeIsTheInstruction
      (.frameTuneTo 0xFF00FF00FF00FF00
        ⟨[0x31, 0x34, 0x36, 0x2E, 0x35, 0x32, 0x30], [0x31, 0x34, 0x36, 0x2E, 0x35, 0x32, 0x31], [0x30, 0x37], 0x33⟩) rfl,
    decodeOfEncodeIsTheInstruction (.frameFilters 0xFF00FF00FF00FF00 ⟨0x31, 0x30, 0x31⟩) rfl⟩

end Sys2Proof
end

section
/-! SUPPORT. Whole frames without parameters: PTT_DOWN and the ignored selectors in Receive (R75, R134, R139), and the frames
of Transmit mode, which one scan takes (R72, R76, R143 to R147). -/

namespace Sys2Proof.Machine

/-! ### Receive-mode frames -/

/-- What a Receive frame does up to the dispatch of its selector (R87, R127 to R129). -/
theorem takeReceiveFrame_header {s : State} (pre : BitVec 64) (sel : Byte) (ps : List Byte) (n : Nat)
    (hm : s.mode = .receive) (hp : s.loopPhase = .iterStart ∨ s.loopPhase = .rxCmd) (hs : s.rxcState = .idle)
    (hb : s.hostIn = []) :
    ∃ u, unlogged u = unlogged (readyToCollect (bytesOf64 pre ++ sel :: ps) s) ∧
      errorEvents u = errorEvents s ∧
      takeReceiveFrame (rxFrameRequest pre sel ps) (10 + n) s =
        agentLSteps n (dispatchSelector (headerRead sel ps u)) := by
  have hu := unlogged_frameArrived (bs := bytesOf64 pre ++ sel :: ps) hm hp hb (by simp)
  have hevents := errorEvents_frameArrived (bytesOf64 pre ++ sel :: ps) s
  have htaken : takeReceiveFrame (rxFrameRequest pre sel ps) (10 + n) s =
      agentLSteps (10 + n) (frameArrived (bytesOf64 pre ++ sel :: ps) s) := takeReceiveFrame_taken _ _ hm hp hs hb
  generalize frameArrived (bytesOf64 pre ++ sel :: ps) s = u at hu hevents htaken
  have hphase : u.loopPhase = .rxCmd := congrArg State.loopPhase hu
  have hidle : u.rxcState = .idle := (congrArg State.rxcState hu).trans ((kickedFirst_rxcState s).trans hs)
  have hbytes : u.hostIn = bytesOf64 pre ++ sel :: ps := congrArg State.hostIn hu
  exact ⟨u, hu, hevents, htaken.trans (agentLSteps_header n hphase hidle hbytes)⟩

theorem dispatchSelector_pttDown {s : State} (h : s.rxcSel = 1) :
    dispatchSelector s = completeCommand (pttDown s) := by
  simp only [dispatchSelector, h, rxSelector_one]

theorem dispatchSelector_ignored {s : State} (h : ignoredInReceive s.rxcSel = true) :
    dispatchSelector s = completeCommand (ignoreCommand s) := by
  simp only [dispatchSelector, rxSelector_ignored h]

@[simp] theorem errorEvents_headerRead (sel : Byte) (ps : List Byte) (s : State) :
    errorEvents (headerRead sel ps s) = errorEvents s := errorEvents_recordRxCmds 10 s

@[simp] theorem errorEvents_pttDown (s : State) : errorEvents (pttDown s) = errorEvents s := by
  simp [pttDown, errorEvents, Entry.isEvent]

/-- Settles O25: the dispatch runs CMD.PTT_DOWN, whose completion in Transmit ends the iteration. -/
theorem pttDownFrameEntersTransmit : Obligations.PttDownFrameEntersTransmit := by
  intro s pre hm hp hs hb
  obtain ⟨u, hu, hevents, hrun⟩ := takeReceiveFrame_header pre 1 [] 0 hm hp hs hb
  rw [dispatchSelector_pttDown rfl] at hrun
  refine ⟨_, hrun, ?_, by simp [hevents]⟩
  obtain ⟨h, rfl⟩ : ∃ h, u = { readyToCollect _ s with history := h } := ⟨_, eq_of_unlogged hu⟩
  simp [unlogged, readyToCollect, headerRead, recordRxCmds, pttDown, hb]

/-- Settles O28: the dispatch runs CMD.IGNORE, whose completion in Receive leads to the drain. -/
theorem otherFrameInReceiveIsIgnored : Obligations.OtherFrameInReceiveIsIgnored := by
  intro s pre sel hm hp hs hb h1 h3 h4
  have hsel : ignoredInReceive sel = true := by simpa [ignoredInReceive] using ⟨⟨h1, h3⟩, h4⟩
  obtain ⟨u, hu, hevents, hrun⟩ := takeReceiveFrame_header pre sel [] 0 hm hp hs hb
  rw [dispatchSelector_ignored hsel] at hrun
  refine ⟨_, hrun, ?_, by simp [hevents, ignoreCommand]⟩
  obtain ⟨h, rfl⟩ : ∃ h, u = { readyToCollect _ s with history := h } := ⟨_, eq_of_unlogged hu⟩
  simp [unlogged, readyToCollect, headerRead, recordRxCmds, ignoreCommand, hm, hb]

/-! ### The scan of a whole frame -/

theorem atTransmitFrame_iff {s : State} :
    atTransmitFrame s = true ↔
      s.mode = .transmit ∧ (s.loopPhase = .iterStart ∨ s.loopPhase = .txBranch) ∧ guardFires s = false ∧
        s.dlmCnt = 0 ∧ s.hostIn = [] ∧ ∀ k, s.cfg.chunkMax = some k → 9 ≤ k := by
  cases hk : s.cfg.chunkMax <;> simp [atTransmitFrame, hk, and_assoc]

/-- A chunk with no bound below the FIFO's bytes is all of them (R144). -/
theorem chunkLen_eq {s : State} (h : ∀ k, s.cfg.chunkMax = some k → s.hostIn.length ≤ k) :
    chunkLen s = s.hostIn.length := by
  unfold chunkLen
  split
  · rfl
  next k hk => exact Nat.min_eq_left (h k hk)

/-- The state in which a scan that takes the whole FIFO classifies it (R143). -/
def chunkRead (s : State) : State := { recordOp .txScan (.count s.hostIn.length) s with hostIn := [] }

@[simp] theorem errorEvents_chunkRead (s : State) : errorEvents (chunkRead s) = errorEvents s :=
  errorEvents_recordOp .txScan (.count s.hostIn.length) s

/-- A scan that takes the whole FIFO classifies all of it (R143, R144). -/
theorem scan_all {s : State} (hb : s.hostIn ≠ []) (h : ∀ k, s.cfg.chunkMax = some k → s.hostIn.length ≤ k) :
    scan s = scanChunk s.hostIn (chunkRead s) := by
  simp [scan, chunkLen_eq h, hb, hostDrop, chunkRead]

theorem checkGuard_quiet {s : State} (h : guardFires s = false) : checkGuard s = recordOp .guardCheck .none s := by
  have hquiet : guardFires (recordOp .guardCheck .none s) = false := h
  simp [checkGuard, hquiet]

/-- Phase TX_BRANCH with a quiet guard is the scan (R160). -/
theorem txBranch_quiet {s : State} (hm : s.mode = .transmit) (h : guardFires s = false) :
    txBranch s = scan (recordOp .guardCheck .none s) := by
  simp [txBranch, h, hm, checkGuard_quiet h]

/-- From no delimiter byte matched the delimiter is payload, and leads to a selector (R141, R147). -/
theorem scanBytes_delim (bs : List Byte) :
    scanBytes 0 (Config.delim ++ bs) =
      { scanBytes 8 bs with payload := Config.delim ++ (scanBytes 8 bs).payload } := by
  simp [Config.delim, scanBytes, matchDelim]

/-- Agent L's step in phase TX_BRANCH, taken alone. -/
theorem agentLSteps_one_txBranch {s : State} (hp : s.loopPhase = .txBranch) : agentLSteps 1 s = txBranch s := by
  have hstep : agentLStep ⟨false, false⟩ s = txBranch s := by simp only [agentLStep, hp]
  rw [agentLSteps_succ, hstep]
  cases txBranch s <;> rfl

theorem unlogged_startedIteration_transmit {s : State} (hm : s.mode = .transmit)
    (hp : s.loopPhase = .iterStart ∨ s.loopPhase = .txBranch) :
    unlogged (startedIteration s) = unlogged { kickedFirst s with loopPhase := .txBranch } := by
  unfold startedIteration kickedFirst
  rcases hp with hp | hp
  · simp [hp, iterStart, hm, unlogged]
  · simp [hp, unlogged]

/-- The state in which agent L is about to scan what waits, but for the history (R41, R160). -/
def readyToScan (bs : List Byte) (s : State) : State := { kickedFirst s with loopPhase := .txBranch, hostIn := bs }

theorem unlogged_frameArrived_transmit {s : State} (bs : List Byte) (hm : s.mode = .transmit)
    (hp : s.loopPhase = .iterStart ∨ s.loopPhase = .txBranch) (hb : s.hostIn = []) :
    unlogged (frameArrived bs s) = unlogged (readyToScan bs s) := by
  rw [frameArrived, unlogged_startedIteration_transmit (by simpa using hm) (by simpa using hp), hostAppendAll_eq, hb]
  unfold readyToScan kickedFirst
  split <;> rfl

theorem guardFires_unlogged (s : State) : guardFires (unlogged s) = guardFires s := rfl

theorem guardFires_readyToScan (bs : List Byte) (s : State) : guardFires (readyToScan bs s) = guardFires s := by
  unfold readyToScan kickedFirst
  split <;> rfl

@[simp] theorem kickedFirst_cfg (s : State) : (kickedFirst s).cfg = s.cfg := by unfold kickedFirst; split <;> rfl

/-- A Transmit frame that agent L reads next is the chunk of one scan (R87, R144; log entry 14). -/
theorem takeTransmitFrame_scans {s : State} (sel : Byte) (hat : atTransmitFrame s = true) :
    ∃ u, unlogged u = unlogged (readyToScan [] s) ∧ errorEvents u = errorEvents s ∧
      takeTransmitFrame (txFrameRequest sel) s = scanChunk (Config.delim ++ [sel]) u := by
  obtain ⟨hm, hp, hg, -, hb, hk⟩ := atTransmitFrame_iff.mp hat
  have hu := unlogged_frameArrived_transmit (Config.delim ++ [sel]) hm hp hb
  have hevents := errorEvents_frameArrived (Config.delim ++ [sel]) s
  have htaken : takeTransmitFrame (txFrameRequest sel) s = agentLSteps 1 (frameArrived (Config.delim ++ [sel]) s) :=
    (if_pos hat).trans (takeFrame_eq 1 _)
  generalize frameArrived (Config.delim ++ [sel]) s = u at hu hevents htaken
  have hmode : u.mode = .transmit := (congrArg State.mode hu).trans ((kickedFirst_mode s).trans hm)
  have hquiet : guardFires u = false := by
    rw [← guardFires_unlogged, hu, guardFires_unlogged, guardFires_readyToScan, hg]
  have hbytes : u.hostIn = Config.delim ++ [sel] := congrArg State.hostIn hu
  have hphase : u.loopPhase = .txBranch := congrArg State.loopPhase hu
  have hcfg : u.cfg = s.cfg := (congrArg State.cfg hu).trans (kickedFirst_cfg s)
  rw [agentLSteps_one_txBranch hphase, txBranch_quiet hmode hquiet,
    scan_all (by simp [hbytes]) (by simpa [hbytes, hcfg, Config.delim] using hk),
    recordOp_hostIn, hbytes] at htaken
  refine ⟨chunkRead (recordOp .guardCheck .none u), ?_, by simp [hevents], htaken⟩
  obtain ⟨h, rfl⟩ : ∃ h, u = { readyToScan _ s with history := h } := ⟨_, eq_of_unlogged hu⟩
  simp [unlogged, readyToScan, chunkRead]

@[simp] theorem kickedFirst_dlmCnt (s : State) : (kickedFirst s).dlmCnt = s.dlmCnt := by unfold kickedFirst; split <;> rfl

/-- A chunk of the delimiter and PTT_UP drops the delimiter and leaves Transmit (R145). -/
theorem scanChunk_pttUp {s : State} (h : s.dlmCnt = 0) :
    scanChunk (Config.delim ++ [pttUpSelector]) s = .next { pttUp s with loopPhase := .iterStart } := by
  have hscan : scanBytes 0 (Config.delim ++ [pttUpSelector]) = ⟨0, Config.delim, [], true⟩ := scanBytes_delim _
  have hsame : { s with dlmCnt := 0 } = s := by rw [← h]
  simp only [scanChunk, h, hscan, hsame, List.foldl_nil, scanFinish, if_true, andThen_next]

/-- A chunk of the delimiter and another selector ingests the delimiter (R146, R147). -/
theorem scanChunk_ignored {s : State} {sel : Byte} (h : s.dlmCnt = 0) (hsel : sel ≠ pttUpSelector) :
    scanChunk (Config.delim ++ [sel]) s =
      andThen (ingest Config.delim (ignoreInTransmit sel s)) fun t => .next { t with loopPhase := .iterStart } := by
  have hscan : scanBytes 0 (Config.delim ++ [sel]) = ⟨0, Config.delim, [sel], false⟩ := by
    rw [scanBytes_delim]
    simp [scanBytes, hsel]
  have hsame : { s with dlmCnt := 0 } = s := by rw [← h]
  have hne : Config.delim ≠ [] := List.cons_ne_nil _ _
  simp only [scanChunk, h, hscan, hsame, List.foldl_cons, List.foldl_nil, scanFinish, hne, if_false,
    Bool.false_eq_true]

theorem errorEvents_pttUp (s : State) : errorEvents (pttUp s) = errorEvents s := by simp [pttUp]

/-- Settles O29: the scan drops the delimiter and runs CMD.PTT_UP. -/
theorem pttUpFrameEntersReceive : Obligations.PttUpFrameEntersReceive := by
  intro s hm hp hd hg hb hk
  obtain ⟨u, hu, hevents, hrun⟩ :=
    takeTransmitFrame_scans pttUpSelector (atTransmitFrame_iff.mpr ⟨hm, hp, hg, hd, hb, hk⟩)
  have hcount : u.dlmCnt = 0 := (congrArg State.dlmCnt hu).trans ((kickedFirst_dlmCnt s).trans hd)
  rw [scanChunk_pttUp hcount] at hrun
  refine ⟨_, hrun, ?_, (errorEvents_pttUp u).trans (by simp [hevents])⟩
  obtain ⟨h, rfl⟩ : ∃ h, u = { readyToScan [] s with history := h } := ⟨_, eq_of_unlogged hu⟩
  simp [unlogged, readyToScan, pttUp, hb]

/-! ### Ingestion, whatever the phase -/

/-- The state without its history and without agent L's phase, neither of which TX.INGEST reads. -/
def withoutPhase (s : State) : State := { unlogged s with loopPhase := .iterStart }

theorem keptBytes_withoutPhase (p : List Byte) (s : State) : keptBytes p (withoutPhase s) = keptBytes p s := rfl

theorem withoutPhase_noteDrop (n : Nat) (s : State) : withoutPhase (noteDrop n s) = withoutPhase s := by
  unfold noteDrop
  split <;> rfl

theorem withoutPhase_swapIfDue (s : State) : withoutPhase (swapIfDue s) = withoutPhase (swapIfDue (withoutPhase s)) := by
  have hdue : swapDue (withoutPhase s) = swapDue s := rfl
  unfold swapIfDue
  rw [hdue]
  split
  · simp [withoutPhase, unlogged, fillingLen]
  · rfl

theorem withoutPhase_appendFilling (bs : List Byte) (s : State) :
    withoutPhase (appendFilling bs s) = appendFilling bs (withoutPhase s) := rfl

theorem errorEvents_noteDrop (n : Nat) (s : State) :
    errorEvents (noteDrop n s) = errorEvents s ++ if 0 < n then [⟨s.now, .event .txDrop, .count n⟩] else [] := by
  unfold noteDrop
  split <;> simp

theorem errorEvents_swapIfDue (s : State) : errorEvents (swapIfDue s) = errorEvents s := by
  unfold swapIfDue
  split
  · simp [errorEvents, Entry.isEvent]
  · rfl

/-- TX.INGEST does the same in states that differ in history and phase alone (R116). -/
theorem ingest_congr {s t : State} (p : List Byte) (h : withoutPhase s = withoutPhase t)
    (hevents : errorEvents s = errorEvents t) :
    ∃ s' t', ingest p s = .next s' ∧ ingest p t = .next t' ∧ withoutPhase s' = withoutPhase t' ∧
      errorEvents s' = errorEvents t' := by
  have hkept : keptBytes p s = keptBytes p t := by rw [← keptBytes_withoutPhase, h, keptBytes_withoutPhase]
  have hnow : s.now = t.now := by simpa [withoutPhase] using congrArg State.now h
  have hrecord : ∀ u, withoutPhase (recordOp .txIngest (.count p.length) u) = withoutPhase u := fun _ => rfl
  refine ⟨_, _, ingest_eq p s, ingest_eq p t, ?_, ?_⟩
  · rw [withoutPhase_swapIfDue, withoutPhase_swapIfDue (appendFilling _ (noteDrop _ (recordOp _ _ t)))]
    simp only [withoutPhase_appendFilling, withoutPhase_noteDrop, hrecord, h, hkept]
  · have happend : ∀ bs u, errorEvents (appendFilling bs u) = errorEvents u := fun _ _ => rfl
    simp only [errorEvents_swapIfDue, happend, errorEvents_noteDrop, errorEvents_recordOp, recordOp_now, hevents,
      hnow, hkept]

theorem errorEvents_kickedFirst (s : State) : errorEvents (kickedFirst s) = errorEvents s := by
  unfold kickedFirst
  split <;> rfl

/-- Settles O30: the scan excises the selector and ingests the delimiter, which reads neither the phase nor the history. -/
theorem otherFrameInTransmitIngestsItsDelimiter : Obligations.OtherFrameInTransmitIngestsItsDelimiter := by
  intro s sel hm hp hd hg hb hk hsel _
  obtain ⟨u, hu, hevents, hrun⟩ := takeTransmitFrame_scans sel (atTransmitFrame_iff.mpr ⟨hm, hp, hg, hd, hb, hk⟩)
  have hcount : u.dlmCnt = 0 := (congrArg State.dlmCnt hu).trans ((kickedFirst_dlmCnt s).trans hd)
  have hphase : withoutPhase (ignoreInTransmit sel u) = withoutPhase (kickedFirst s) :=
    calc withoutPhase (ignoreInTransmit sel u)
        = withoutPhase (readyToScan [] s) := congrArg (fun u : State => { u with loopPhase := .iterStart }) hu
      _ = withoutPhase (kickedFirst s) := by simp [withoutPhase, unlogged, readyToScan, hb]
  have hsame : errorEvents (ignoreInTransmit sel u) = errorEvents (kickedFirst s) := by
    rw [errorEvents_kickedFirst, ← hevents, ignoreInTransmit, errorEvents_recordOp]
  obtain ⟨v, w, hv, hw, hrest, hevents⟩ := ingest_congr Config.delim hphase hsame
  rw [scanChunk_ignored hcount hsel, hv, andThen_next] at hrun
  exact ⟨_, w, hrun, hw, hrest, hevents⟩

end Sys2Proof.Machine
end

section
/-! SUPPORT. The script's lines (R82, R83, R182): what a line decodes to is what the step runs, and a line that decodes to
nothing is refused. -/

namespace Sys2Proof.Machine

/-- A line that decodes to nothing is refused (R82). -/
theorem step_undecodable {s : State} {r : Request} {rest : List Request} {e : DecodeError} (hw : watchdogDue s = false)
    (ht : strobeDue s = false) (hs : s.script = r :: rest) (hr : decode r = .error e) :
    step s = .refused (.undecodable e) := by
  simp [step, nextInstr, hw, ht, scriptHead_cons hs, hr]

/-- Settles O46: every operation's id is listed, so the decoder finds none. -/
theorem unlistedIdsAreRefused : Obligations.UnlistedIdsAreRefused := fun _ bs hb =>
  ⟨decodeOp_unlisted hb bs, fun _ _ hw ht hs => step_undecodable hw ht hs (decodeOp_unlisted hb bs)⟩

/-- Settles O48: with nothing of higher priority due the step takes the script's first line. -/
theorem stepRunsTheDecodedLine : Obligations.StepRunsTheDecodedLine := fun _ _ _ _ hw ht hs hr =>
  (step_script hw ht hs hr).trans (congrArg (exec _) (popScript_cons hs))

end Sys2Proof.Machine
end

section
/-! SUPPORT. The sampler (40_sampler.md): the strobe, the two paths of the handler and TICK, which runs one of them; and a run of
stored samples. -/

namespace Sys2Proof.Machine

/-! ### The playback index (R97, R99) -/

/-- Strictly before the window's end the quotient is strictly below the factor L - 1. -/
theorem tickIndex_lt {s : State} (h : windowOpen s = true) (hL : 2 ≤ playingLen s) :
    tickIndex s < playingLen s - 1 := by
  obtain ⟨-, hstart, hend⟩ := windowOpen_iff.mp h
  rw [BitVec.le_def] at hstart
  rw [BitVec.lt_def] at hend
  exact Nat.div_lt_of_lt_mul (Nat.mul_lt_mul_of_pos_right (by omega) (by omega))

/-- Settles O5: L - 1 bounds the index, and from L = 2 on it is not reached. -/
theorem emittedIndexIsInsideTheFilledRange : Obligations.EmittedIndexIsInsideTheFilledRange := fun _ h =>
  ⟨tickIndex_le h, fun hL => Nat.le_sub_one_of_lt (tickIndex_lt h hL)⟩

/-! ### TICK.RX (R94, R95) -/

/-- The state after TICK.RX has stored v (R94). -/
def sampleStored (v : Byte) (s : State) : State :=
  { recordOp .tickRx .none s with rxBuf := memWrite s.rxBuf s.rxTail v, rxTail := (s.rxTail + 1) % s.cfg.cRx }

@[simp] theorem sampleStored_cfg (v : Byte) (s : State) : (sampleStored v s).cfg = s.cfg := rfl
@[simp] theorem sampleStored_rxHead (v : Byte) (s : State) : (sampleStored v s).rxHead = s.rxHead := rfl
@[simp] theorem sampleStored_rxTail (v : Byte) (s : State) :
    (sampleStored v s).rxTail = (s.rxTail + 1) % s.cfg.cRx := rfl

@[simp] theorem errorEvents_sampleStored (v : Byte) (s : State) : errorEvents (sampleStored v s) = errorEvents s :=
  errorEvents_recordOp .tickRx .none s

theorem slot_sampleStored (v : Byte) (s : State) (i : Nat) :
    slot (sampleStored v s) .rxBuf i = if i = s.rxTail then v else slot s .rxBuf i := by
  have hslot : slot (sampleStored v s) .rxBuf i =
      if ArrayName.rxBuf = .rxBuf ∧ s.rxTail = i then v else slot s .rxBuf i :=
    slot_after_write .rxBuf .rxBuf s.rxTail i v s
  simpa [eq_comm] using hslot

@[simp] theorem unsentCount_sampleStored (v : Byte) (s : State) :
    unsentCount (sampleStored v s) = (unsentCount s + 1) % s.cfg.cRx :=
  subMod_succ s.rxTail s.rxHead s.cfg.cRx

theorem execTickRx_receive {s : State} (h : s.mode = .receive) (d : SampleRead) : execTickRx d s = tickRxPath d s := by
  simp only [execTickRx, h]

theorem execTickRx_value {s : State} (v : Byte) (hm : s.mode = .receive) (h : s.rxTail < s.cfg.cRx) :
    execTickRx (.value v) s = .next (sampleStored v s) :=
  (execTickRx_receive hm _).trans (tickRxPath_value v h)

/-! ### A run of samples (R112) -/

/-- The state after TICK.RX has stored the samples one after the other. -/
def samplesStored (vs : List Byte) (s : State) : State := vs.foldl (fun s v => sampleStored v s) s

theorem samplesStored_concat (vs : List Byte) (v : Byte) (s : State) :
    samplesStored (vs ++ [v]) s = sampleStored v (samplesStored vs s) := List.foldl_concat ..

theorem runInstrs_tickRx {s : State} (vs : List Byte) (hm : s.mode = .receive) (h : s.rxTail < s.cfg.cRx) :
    runInstrs (vs.map fun v => Instr.tickRx (.value v)) s = .next (samplesStored vs s) := by
  induction vs generalizing s with
  | nil => rfl
  | cons v vs ih =>
    have hstep : exec (.tickRx (.value v)) s = .next (sampleStored v s) := execTickRx_value v hm h
    rw [List.map_cons, runInstrs, hstep, andThen_next]
    exact ih hm (Nat.mod_lt _ (Nat.zero_lt_of_lt h))

/-- What a stored sample keeps a run of them keeps. -/
theorem samplesStored_keeps {α : Type} {f : State → α} (hf : ∀ v s, f (sampleStored v s) = f s) (vs : List Byte)
    (s : State) : f (samplesStored vs s) = f s := by
  induction vs generalizing s with
  | nil => rfl
  | cons v vs ih => exact (ih (sampleStored v s)).trans (hf v s)

@[simp] theorem samplesStored_cfg (vs : List Byte) (s : State) : (samplesStored vs s).cfg = s.cfg :=
  samplesStored_keeps sampleStored_cfg vs s

theorem rxTail_samplesStored {s : State} (vs : List Byte) (h : s.rxTail < s.cfg.cRx) :
    (samplesStored vs s).rxTail = (s.rxTail + vs.length) % s.cfg.cRx := by
  induction vs using List.reverseRecOn with
  | nil => exact (Nat.mod_eq_of_lt h).symm
  | append_singleton vs v ih => simp [samplesStored_concat, ih, Nat.add_assoc]

theorem unsentCount_samplesStored {s : State} (vs : List Byte) (h : 0 < s.cfg.cRx) :
    unsentCount (samplesStored vs s) = (unsentCount s + vs.length) % s.cfg.cRx := by
  induction vs using List.reverseRecOn with
  | nil => exact (Nat.mod_eq_of_lt (subMod_lt h)).symm
  | append_singleton vs v ih => simp [samplesStored_concat, ih, Nat.add_assoc]

/-- Less than a lap apart, two advances of a cursor lead to different slots (R15). -/
theorem add_mod_ne_of_lt (a : Nat) {k m n : Nat} (hkm : k < m) (hmn : m < n) : (a + k) % n ≠ (a + m) % n := fun h =>
  hkm.ne ((Nat.ModEq.add_left_cancel' a h).eq_of_lt_of_lt (hkm.trans hmn) hmn)

/-- Up to C_RX samples stand in order behind the old tail, for none of them overwrites another (R94, R112). -/
theorem slot_samplesStored {s : State} {vs : List Byte} (h : s.rxTail < s.cfg.cRx) (hN : vs.length ≤ s.cfg.cRx)
    {k : Nat} (hk : k < vs.length) : slot (samplesStored vs s) .rxBuf ((s.rxTail + k) % s.cfg.cRx) = vs.getD k 0 := by
  induction vs using List.reverseRecOn with
  | nil => exact absurd hk (Nat.not_lt_zero k)
  | append_singleton vs v ih =>
    rw [List.length_append, List.length_singleton] at hk hN
    rw [samplesStored_concat, slot_sampleStored, rxTail_samplesStored vs h]
    rcases Nat.lt_succ_iff_lt_or_eq.mp hk with hk | rfl
    · rw [if_neg (add_mod_ne_of_lt _ hk hN), ih (Nat.le_of_succ_le hN) hk, List.getD_append _ _ _ _ hk]
    · simp

/-- Settles O10: the run's closed form, whose count, head, slots and events are each said by a lemma. -/
theorem storedSamplesCountModuloCapacity : Obligations.StoredSamplesCountModuloCapacity := fun s vs hs hm =>
  ⟨samplesStored vs s, runInstrs_tickRx vs hm hs.rxTail_lt, unsentCount_samplesStored vs hs.cRx_pos,
    samplesStored_keeps sampleStored_rxHead vs s, fun hN _ => slot_samplesStored hs.rxTail_lt hN,
    samplesStored_keeps errorEvents_sampleStored vs s⟩

/-! ### TIMER.STROBE (R89) -/

theorem execTimerStrobe_of_le {s : State} (h : s.tmrNext ≤ s.now) :
    execTimerStrobe s = .next
      { (if s.tickPending then raiseEvent .tickCoalesced (.time s.tmrNext) (recordOp .timerStrobe .none s)
          else recordOp .timerStrobe .none s) with
        tickPending := true
        tmrNext := s.tmrNext + BitVec.ofNat 64 s.cfg.tickPeriodUs } := by
  have hdue : strobeDue s = true := decide_eq_true h
  unfold execTimerStrobe
  rw [if_pos hdue]
  cases hp : s.tickPending <;> simp [hp]

/-- Settles O1: the two states of the latch. -/
theorem timerStrobeLatchesAndReloads : Obligations.TimerStrobeLatchesAndReloads := by
  intro s h
  refine ⟨_, execTimerStrobe_of_le h, ?_⟩
  cases s.tickPending <;> exact ⟨rfl, by simp [errorEvents, Entry.isEvent]⟩

/-! ### TICK (R92) -/

/-- With the latch set TICK in Receive is its entry and TICK.RX's path, from the state with the latch clear. -/
theorem execTick_receive {s : State} (d : SampleRead) (hp : s.tickPending = true) (hm : s.mode = .receive) :
    execTick d s = tickRxPath d (recordOp .tick .none { s with tickPending := false }) := by
  unfold execTick
  rw [if_pos hp]
  simp only [recordOp_mode, hm]
  rfl

/-- With the latch set TICK in Transmit is its entry and TICK.TX's path, from the state with the latch clear. -/
theorem execTick_transmit {s : State} (d : SampleRead) (hp : s.tickPending = true) (hm : s.mode = .transmit) :
    execTick d s = tickTxPath (recordOp .tick .none { s with tickPending := false }) := by
  unfold execTick
  rw [if_pos hp]
  simp only [recordOp_mode, hm]
  rfl

theorem execTick_notPending {s : State} (d : SampleRead) (hp : s.tickPending = false) : execTick d s = .next s :=
  if_neg (by simp [hp])

/-- Both results are next states, equal but for the history, with the same error events. -/
def CompleteAlike (r r' : Result) : Prop :=
  ∃ t u, r = .next t ∧ r' = .next u ∧ unlogged t = unlogged u ∧ errorEvents t = errorEvents u

/-- TICK.RX's path reads no history (R167). -/
theorem tickRxPath_recordOp (o : OpName) (info : Info) {s : State} (d : SampleRead) (h : s.rxTail < s.cfg.cRx) :
    CompleteAlike (tickRxPath d (recordOp o info s)) (tickRxPath d s) := by
  cases d with
  | fault => exact ⟨_, _, tickRxPath_fault _, tickRxPath_fault _, rfl, by simp⟩
  | value v =>
    exact ⟨sampleStored v (recordOp o info s), sampleStored v s, tickRxPath_value v h, tickRxPath_value v h, rfl,
      by simp⟩

/-- The state after TICK.TX has driven b (R96). -/
def sampleDriven (b : Byte) (s : State) : State :=
  emit (.sampleWr s.now b) { recordOp .tickTx .none s with sampleOut := b }

theorem errorEvents_sampleDriven (b : Byte) (s : State) : errorEvents (sampleDriven b s) = errorEvents s :=
  (errorEvents_emit _ _).trans (errorEvents_recordOp .tickTx .none s)

/-- TICK.TX's path inside the window (R96). -/
theorem tickTxPath_inside {s : State} (h : playingLen s ≤ s.cfg.cTx) (hw : windowOpen s = true) :
    tickTxPath s = .next (sampleDriven (slot s (playingBuffer s) (tickIndex s)) s) := by
  rw [tickTxPath_of_le h, if_pos hw]
  rfl

/-- TICK.TX's path outside the window (R98). -/
theorem tickTxPath_outside {s : State} (hw : ¬windowOpen s = true) : tickTxPath s = .next (recordOp .tickTx .none s) := by
  rw [tickTxPath_unfold, if_neg hw]

/-- TICK.TX's path reads no history (R167). -/
theorem tickTxPath_recordOp (o : OpName) (info : Info) {s : State} (h : playingLen s ≤ s.cfg.cTx) :
    CompleteAlike (tickTxPath (recordOp o info s)) (tickTxPath s) := by
  by_cases hw : windowOpen s = true
  · exact ⟨_, _, tickTxPath_inside (s := recordOp o info s) h hw, tickTxPath_inside h hw, rfl,
      by simp only [errorEvents_sampleDriven, errorEvents_recordOp]⟩
  · exact ⟨_, _, tickTxPath_outside (s := recordOp o info s) hw, tickTxPath_outside hw, rfl, by simp⟩

theorem execTickTx_transmit {s : State} (h : s.mode = .transmit) : execTickTx s = tickTxPath s := by
  simp only [execTickTx, h]

/-- Settles O4: TICK's own entry apart, both sides run one path from one state. -/
theorem tickClearsLatchAndRunsThePathOfTheMode : Obligations.TickClearsLatchAndRunsThePathOfTheMode := by
  intro s d
  refine ⟨execTick_notPending d, fun hp hm h => ?_, fun hp hm h => ?_⟩
  · change CompleteAlike (execTick d s) (execTickRx d { s with tickPending := false })
    rw [execTick_receive d hp hm, execTickRx_receive (s := { s with tickPending := false }) hm]
    exact tickRxPath_recordOp .tick .none d h
  · change CompleteAlike (execTick d s) (execTickTx { s with tickPending := false })
    rw [execTick_transmit d hp hm, execTickTx_transmit (s := { s with tickPending := false }) hm]
    exact tickTxPath_recordOp .tick .none h

/-- Settles O2: the path with a sample and with a FAULT, and the whole TICK with a FAULT. -/
theorem tickRxStoresOneSampleOrNone : Obligations.TickRxStoresOneSampleOrNone := by
  intro s v hm
  refine ⟨fun h => ?_, ?_, fun hp => ?_⟩
  · exact ⟨_, execTickRx_value v hm h, rfl, slot_sampleStored v s, errorEvents_sampleStored v s⟩
  · exact ⟨_, (execTickRx_receive hm .fault).trans (tickRxPath_fault s), rfl, by simp⟩
  · exact ⟨_, (execTick_receive .fault hp hm).trans (tickRxPath_fault _), rfl, by simp [errorEvents, Entry.isEvent]⟩

/-- The window is closed with nothing to play, before its start and from its end on (R98). -/
theorem not_windowOpen {s : State} (h : playingLen s = 0 ∨ s.now < s.txPlayStart ∨ s.txPlayEnd ≤ s.now) :
    ¬windowOpen s = true := by
  rw [windowOpen_iff]
  rintro ⟨hL, hstart, hend⟩
  rcases h with h | h | h
  · omega
  · exact absurd hstart (BitVec.not_le.mpr h)
  · exact absurd hend (BitVec.not_lt.mpr h)

/-- Settles O3: the two forms of TICK.TX's path. -/
theorem tickTxEmitsOnlyInsideTheWindow : Obligations.TickTxEmitsOnlyInsideTheWindow := by
  intro s hm
  refine ⟨fun hL hcap hstart hend => ?_, fun h => ?_⟩
  · have hpath := tickTxPath_inside hcap (windowOpen_iff.mpr ⟨hL, hstart, hend⟩)
    exact ⟨_, (execTickTx_transmit hm).trans hpath, rfl, by simp [errorEvents_sampleDriven]⟩
  · exact ⟨_, (execTickTx_transmit hm).trans (tickTxPath_outside (not_windowOpen h)), rfl, by simp⟩

end Sys2Proof.Machine
end

section
/-! SUPPORT. The drain's single steps before its commit (41_rx_buffer.md): the start step and a copy step. -/

namespace Sys2Proof.Machine

/-! ### The start step (R105) -/

/-- The only number that is the mathematical remainder is the count the model computes (R15). -/
theorem unsentCount_eq_of_emod {s : State} {n : Nat} (h : 0 < s.cfg.cRx)
    (hn : (n : Int) = ((s.rxTail : Int) - s.rxHead) % s.cfg.cRx) : unsentCount s = n :=
  Int.natCast_inj.mp ((subMod_eq_emod h).trans hn.symm)

/-- Below DRAIN_MIN the start step skips the drain. -/
theorem drainStart_of_lt {s : State} (h : unsentCount s < s.cfg.drainMin) :
    drainStart s = { recordOp .rxDrain .none s with loopPhase := .iterStart } := if_pos h

/-- A drain just started has copied nothing. -/
theorem unlogged_drainedTo_zero (s : State) :
    unlogged (drainedTo 0 s) = unlogged
      { s with drSnap := s.rxTail, drN := unsentCount s, drI := 0, drActive := true } := rfl

@[simp] theorem errorEvents_drainedTo (k : Nat) (s : State) : errorEvents (drainedTo k s) = errorEvents s := by
  simp [drainedTo, errorEvents, Entry.isEvent]

/-- Settles O6: the count below DRAIN_MIN, and from DRAIN_MIN on. -/
theorem drainStartSnapshotsOrSkips : Obligations.DrainStartSnapshotsOrSkips := by
  intro s q n hp ha hm hc hn
  obtain rfl := unsentCount_eq_of_emod hc hn
  refine ⟨drainStart s, drainStep_start q hp ha hm, ?_⟩
  by_cases hmin : unsentCount s < s.cfg.drainMin
  · rw [if_pos hmin, drainStart_of_lt hmin]
    exact ⟨rfl, by simp [errorEvents, Entry.isEvent]⟩
  · rw [if_neg hmin, drainStart_eq (Nat.not_lt.mp hmin)]
    exact ⟨unlogged_drainedTo_zero s, by simp⟩

/-! ### A copy step (R106) -/

/-- The state after a copy step. -/
def byteCopied (s : State) : State :=
  { recordOp .rxDrain .none s with
    scratch := memWrite s.scratch s.drI (slot s .rxBuf (drainSlot s)), drI := s.drI + 1 }

theorem slot_byteCopied (s : State) (i : Nat) :
    slot (byteCopied s) .scratch i = if s.drI = i then slot s .rxBuf (drainSlot s) else slot s .scratch i := by
  have hslot : slot (byteCopied s) .scratch i =
      if ArrayName.scratch = .scratch ∧ s.drI = i then slot s .rxBuf (drainSlot s) else slot s .scratch i :=
    slot_after_write .scratch .scratch s.drI i (slot s .rxBuf (drainSlot s)) s
  simpa using hslot

@[simp] theorem errorEvents_byteCopied (s : State) : errorEvents (byteCopied s) = errorEvents s :=
  errorEvents_recordOp .rxDrain .none s

/-- Settles O7: the copy writes the slot at DR_I and no other. -/
theorem drainCopiesOneByte : Obligations.DrainCopiesOneByte := by
  intro s q ha hi hc
  refine ⟨byteCopied s, (drainStep_copy q ha hi).trans (drainCopy_of_lt hc), rfl, ?_, fun i hne => ?_,
    errorEvents_byteCopied s⟩
  · rw [slot_byteCopied, if_pos rfl, drainSlot]
  · rw [slot_byteCopied, if_neg hne.symm]

end Sys2Proof.Machine
end

section
/-! SUPPORT. The fill side of the playback engine (42_tx_engine.md): TX.SWAP alone, and TX.INGEST as an append with the swap
behind it. -/

namespace Sys2Proof.Machine

/-! ### TX.SWAP (R118) -/

/-- The window set from the filled length, the other buffer emptied and the roles exchanged (R118). -/
def rolesExchanged (s : State) : State :=
  { s with
    txPlayStart := s.now
    txPlayEnd := s.now + BitVec.ofNat 64 (playDuration s.cfg (fillingLen s))
    txLenA := if s.txFillA then s.txLenA else 0
    txLenB := if s.txFillA then 0 else s.txLenB
    txFillA := !s.txFillA }

/-- The end time as a sum of times is the time of the sum (R16, R17). -/
theorem unlogged_swapBuffers (s : State) : unlogged (swapBuffers s) = unlogged (rolesExchanged s) := by
  have hend : BitVec.ofNat 64 (s.now.toNat + playDuration s.cfg (fillingLen s)) =
      s.now + BitVec.ofNat 64 (playDuration s.cfg (fillingLen s)) := by
    rw [BitVec.ofNat_add, BitVec.ofNat_toNat, BitVec.setWidth_eq]
  simp only [rolesExchanged, ← hend]
  rfl

theorem errorEvents_swapBuffers (s : State) : errorEvents (swapBuffers s) = errorEvents s :=
  errorEvents_recordOp .txSwap .none s

/-- Settles O11: the roles exchanged are the named state. -/
theorem swapExchangesRoles : Obligations.SwapExchangesRoles := fun s =>
  ⟨swapBuffers s, rfl, unlogged_swapBuffers s, by simp [errorEvents_swapBuffers]⟩

/-! ### TX.INGEST (R116) -/

/-- The state after TX.INGEST. -/
def ingested (p : List Byte) (s : State) : State :=
  swapIfDue (appendFilling (p.take (keptBytes p s))
    (noteDrop (p.length - keptBytes p s) (recordOp .txIngest (.count p.length) s)))

theorem execTxIngest_eq (p : List Byte) (s : State) : execTxIngest p s = .next (ingested p s) := ingest_eq p s

theorem unlogged_noteDrop (n : Nat) (s : State) : unlogged (noteDrop n s) = unlogged s := by
  unfold noteDrop
  split <;> rfl

theorem swapDue_iff (s : State) : swapDue s = true ↔ s.cfg.cTx - s.cfg.mTx ≤ fillingLen s := decide_eq_true_iff

/-- The swap runs exactly from C_TX - M_TX bytes on (R116, R119). -/
theorem unlogged_swapIfDue (s : State) :
    unlogged (swapIfDue s) = unlogged (if fillingLen s < s.cfg.cTx - s.cfg.mTx then s else rolesExchanged s) := by
  by_cases h : fillingLen s < s.cfg.cTx - s.cfg.mTx
  · rw [swapIfDue, if_neg ((swapDue_iff s).not.mpr h.not_ge), if_pos h]
  · rw [swapIfDue, if_pos ((swapDue_iff s).mpr (Nat.not_lt.mp h)), if_neg h, unlogged_swapBuffers]

/-- But for the history TX.INGEST is the append of what fits, and the swap where it is due. -/
theorem unlogged_ingested (p : List Byte) (s : State) :
    unlogged (ingested p s) = unlogged
      (if fillingLen s + keptBytes p s < s.cfg.cTx - s.cfg.mTx then appendFilling (p.take (keptBytes p s)) s
       else rolesExchanged (appendFilling (p.take (keptBytes p s)) s)) := by
  obtain ⟨h, hlogged⟩ : ∃ h, noteDrop (p.length - keptBytes p s) (recordOp .txIngest (.count p.length) s) =
      { s with history := h } := ⟨_, eq_of_unlogged (unlogged_noteDrop _ _)⟩
  have hlen : fillingLen (appendFilling (p.take (keptBytes p s)) { s with history := h }) =
      fillingLen s + keptBytes p s := by
    rw [fillingLen_appendFilling, length_take_keptBytes]
    rfl
  rw [ingested, hlogged, unlogged_swapIfDue, hlen, appendFilling_cfg]
  split <;> rfl

@[simp] theorem txArrays_setFillingLen (n : Nat) (s : State) : txArrays (setFillingLen n s) = txArrays s := by
  simp [txArrays]

/-- The swap moves no byte: the Tx buffers are those after the append. -/
theorem txArrays_ingested (p : List Byte) (s : State) :
    txArrays (ingested p s) = txArrays (appendFilling (p.take (keptBytes p s)) s) := by
  change txArrays (unlogged (ingested p s)) = _
  rw [unlogged_ingested]
  split <;> rfl

/-- A slot of a filling buffer is read from the Tx buffers. -/
theorem slot_fillingBuffer_congr {t u : State} (h : txArrays t = txArrays u) (s : State) (j : Nat) :
    slot t (fillingBuffer s) j = slot u (fillingBuffer s) j := by
  simp only [txArrays, Prod.mk.injEq] at h
  obtain ⟨hA, hB, he⟩ := h
  unfold fillingBuffer
  split
  · exact slot_congr (a := .txBufA) hA he j
  · exact slot_congr (a := .txBufB) hB he j

/-- The filling buffer's slots hold the bytes that fit behind its length, and elsewhere what they held. -/
theorem slot_ingested_filling (p : List Byte) (s : State) (j : Nat) :
    slot (ingested p s) (fillingBuffer s) j =
      if fillingLen s ≤ j ∧ j < fillingLen s + keptBytes p s then p.getD (j - fillingLen s) 0
      else slot s (fillingBuffer s) j := by
  rw [slot_fillingBuffer_congr (txArrays_ingested p s), ← appendFilling_eq,
    slot_fillingBuffer_congr (txArrays_setFillingLen _ _), slot_after_writes, length_take_keptBytes]
  simp only [true_and]
  refine ite_congr rfl (fun hj => ?_) fun _ => rfl
  rw [List.getD_eq_getElem?_getD, List.getD_eq_getElem?_getD, List.getElem?_take_of_lt (by omega)]

/-- The playing buffer keeps its slots, even where the swap then exchanges the roles (R54). -/
theorem slot_ingested_playing (p : List Byte) (s : State) (j : Nat) :
    slot (ingested p s) (playingBuffer s) j = slot s (playingBuffer s) j :=
  (ingest_keepsPlaying (execTxIngest_eq p s)).slot_eq j

theorem errorEvents_appendFilling (bs : List Byte) (s : State) : errorEvents (appendFilling bs s) = errorEvents s := rfl

/-- E_TX_DROP counts what does not fit (R117). -/
theorem errorEvents_ingested (p : List Byte) (s : State) :
    errorEvents (ingested p s) = errorEvents s ++
      if keptBytes p s < p.length then [⟨s.now, .event .txDrop, .count (p.length - keptBytes p s)⟩] else [] := by
  simp only [ingested, errorEvents_swapIfDue, errorEvents_appendFilling, errorEvents_noteDrop, errorEvents_recordOp,
    recordOp_now, Nat.sub_pos_iff_lt]

/-- An append changes the filling buffer's length and the Tx buffers alone (R116). -/
theorem appendFilling_frame (bs : List Byte) (s : State) :
    appendFilling bs s =
      { s with
        txLenA := if s.txFillA then fillingLen s + bs.length else s.txLenA
        txLenB := if s.txFillA then s.txLenB else fillingLen s + bs.length
        txBufA := (appendFilling bs s).txBufA
        txBufB := (appendFilling bs s).txBufB } := by
  cases hf : s.txFillA <;> simp [appendFilling, fillingLen, hf]

/-- The swap behind an append plays the length after it (R116, R118). -/
theorem rolesExchanged_appendFilling (bs : List Byte) (s : State) :
    rolesExchanged (appendFilling bs s) =
      { s with
        txLenA := if s.txFillA then fillingLen s + bs.length else 0
        txLenB := if s.txFillA then 0 else fillingLen s + bs.length
        txFillA := !s.txFillA
        txPlayStart := s.now
        txPlayEnd := s.now + BitVec.ofNat 64 (playDuration s.cfg (fillingLen s + bs.length))
        txBufA := (appendFilling bs s).txBufA
        txBufB := (appendFilling bs s).txBufB } := by
  rw [rolesExchanged, fillingLen_appendFilling]
  cases hf : s.txFillA <;> simp [appendFilling, fillingLen, hf]

/-- Settles O12: the append without and with the swap behind it; every slot and the events are each said by a lemma. -/
theorem ingestAppendsDropsAndSwaps : Obligations.IngestAppendsDropsAndSwaps := by
  intro s p F O len m _
  refine ⟨ingested p s, execTxIngest_eq p s, ?_, slot_ingested_filling p s, slot_ingested_playing p s,
    errorEvents_ingested p s⟩
  obtain ⟨hA, hBE⟩ := Prod.mk.inj (txArrays_ingested p s)
  obtain ⟨hB, -⟩ := Prod.mk.inj hBE
  rw [unlogged_ingested, rolesExchanged_appendFilling, appendFilling_frame, length_take_keptBytes, hA, hB]
  rfl

end Sys2Proof.Machine
end

section
/-! SUPPORT. Agent L's phase and the mode (R140, R145, R155, R160): each phase's step keeps the two together, and so does every
effect of agent S and of what stands outside. -/

namespace Sys2Proof.Machine

/-! ### Phases that fit -/

/-- Phase ITER_START fits both modes. -/
theorem PhaseFitsMode.of_iterStart {s : State} (hp : s.loopPhase = .iterStart) : PhaseFitsMode s := by
  simp [PhaseFitsMode, hp]

theorem PhaseFitsMode.congr {s t : State} (h : PhaseFitsMode s) (hp : t.loopPhase = s.loopPhase)
    (hm : t.mode = s.mode) : PhaseFitsMode t := by
  simpa only [PhaseFitsMode, hp, hm] using h

/-- A command completes into the phase of the mode it leaves (R140). -/
theorem phaseFitsMode_completeCommand (s : State) : PhaseFitsMode (completeCommand s) := by
  cases hm : s.mode <;> simp [PhaseFitsMode, completeCommand, hm]

/-- The iteration start branches by the mode (R160). -/
theorem phaseFitsMode_iterStart (s : State) : PhaseFitsMode (iterStart s) := by
  cases hm : s.mode
  · cases hb : s.hostIn <;> simp [PhaseFitsMode, iterStart, hm, hostAvail, hb]
  · simp [PhaseFitsMode, iterStart, hm]

/-! ### Agent L's steps -/

/-- A scan ends the iteration (R143). -/
theorem scan_ends {s t : State} (h : scan s = .next t) : t.loopPhase = .iterStart := by
  unfold scan scanChunk at h
  dsimp only at h
  split at h
  · cases h; rfl
  · obtain ⟨u, -, ht⟩ := andThen_eq_next.mp h
    cases ht; rfl

/-- In phase TX_BRANCH agent L ends the iteration or has no step (R155, R160). -/
theorem txBranch_ends {s t : State} (h : txBranch s = .next t) : t.loopPhase = .iterStart ∨ t = s := by
  unfold txBranch at h
  split at h
  · cases h; exact .inl rfl
  · split at h
    · exact .inl (scan_ends h)
    · cases h; exact .inr rfl

theorem dispatchSelector_phaseFits {s : State} (hs : PhaseFitsMode s) : PhaseFitsMode (dispatchSelector s) := by
  unfold dispatchSelector
  split
  · exact phaseFitsMode_completeCommand _
  · exact hs.congr rfl rfl
  · exact hs.congr rfl rfl
  · exact phaseFitsMode_completeCommand _

theorem headerByte_phaseFits {s : State} (hs : PhaseFitsMode s) : PhaseFitsMode (headerByte s) := by
  unfold headerByte
  split
  · exact hs
  · dsimp only
    split
    · exact hs.congr rfl rfl
    · exact dispatchSelector_phaseFits (hs.congr rfl rfl)

theorem paramStep_phaseFits {s t : State} (hs : PhaseFitsMode s) (h : paramStep s = .next t) : PhaseFitsMode t := by
  by_cases ha : paramsAvailable s = true
  · rw [paramStep_available ha] at h
    obtain ⟨u, -, ht⟩ := andThen_eq_next.mp h
    cases ht
    exact phaseFitsMode_completeCommand u
  · unfold paramStep at h
    rw [if_neg ha] at h
    split at h <;> cases h
    · exact phaseFitsMode_completeCommand _
    · exact hs

theorem collectorStep_phaseFits {s t : State} (hs : PhaseFitsMode s) (h : collectorStep s = .next t) :
    PhaseFitsMode t := by
  unfold collectorStep at h
  split at h
  · split at h <;> cases h
    · exact hs.congr rfl rfl
    · exact hs
  · cases h; exact headerByte_phaseFits hs
  · exact paramStep_phaseFits hs h

/-- A commit step ends the iteration (R110). -/
theorem drainCommit_ends {q : Bool} {s t : State} (h : drainCommit q s = .next t) : t.loopPhase = .iterStart := by
  unfold drainCommit drainSend at h
  obtain ⟨u, -, ht⟩ := andThen_eq_next.mp h
  split at ht <;> cases ht
  rfl

theorem drainStart_phaseFits {s : State} (hs : PhaseFitsMode s) : PhaseFitsMode (drainStart s) := by
  unfold drainStart
  dsimp only
  split
  · exact .of_iterStart rfl
  · exact hs.congr rfl rfl

theorem drainCopy_phaseFits {s t : State} (hs : PhaseFitsMode s) (h : drainCopy s = .next t) : PhaseFitsMode t := by
  unfold drainCopy at h
  dsimp only at h
  split at h
  · obtain ⟨u, hu, ht⟩ := andThen_eq_next.mp h
    obtain ⟨-, rfl⟩ := writeSlot_eq_next.mp hu
    cases ht
    exact hs.congr rfl rfl
  · cases h

theorem drainStep_phaseFits {q : DrainDraw} {s t : State} (hs : PhaseFitsMode s) (h : drainStep q s = .next t) :
    PhaseFitsMode t := by
  unfold drainStep at h
  split at h
  · split at h
    · exact drainCopy_phaseFits hs h
    · split at h
      · split at h
        · cases h; exact hs.congr rfl rfl
        · exact .of_iterStart (drainCommit_ends h)
      · cases h; exact hs
  · split at h <;> cases h
    · exact drainStart_phaseFits hs
    · exact hs

theorem agentLStep_phaseFits {q : DrainDraw} {s t : State} (hs : PhaseFitsMode s) (h : agentLStep q s = .next t) :
    PhaseFitsMode t := by
  unfold agentLStep at h
  split at h
  · cases h; exact phaseFitsMode_iterStart s
  · rcases txBranch_ends h with hp | rfl
    · exact .of_iterStart hp
    · exact hs
  · exact collectorStep_phaseFits hs h
  · exact drainStep_phaseFits hs h

/-! ### The other actors -/

/-- Only agent L and RESET write LOOP_PHASE or MODE, and RESET leaves ITER_START (R183, R186). -/
theorem Effect.keeps_phaseFits {a : Actor} {s t : State} (e : Effect a s t) (ha : a ≠ .agentL) (hs : PhaseFitsMode s) :
    PhaseFitsMode t := by
  cases e with
  | reset => exact .of_iterStart rfl
  | emit x => exact hs.congr (emit_loopPhase x s) (emit_mode x s)
  | record | raise | takeStrobe | storeSample | driveSample | latchStrobe | advanceNow | arrive => exact hs.congr rfl rfl
  | noteKick | goTo | readHost | startHeader | countHeader | keepSelector | beginParams | storeParams | completeCommand
  | enterTx | enterRx | countDelim | append | appendSwap | swap | snapshot | copyByte | advanceHead | silence
  | endDrain => exact absurd rfl ha

theorem Effects.keeps_phaseFits {a : Actor} {s t : State} (h : Effects a s t) (ha : a ≠ .agentL)
    (hs : PhaseFitsMode s) : PhaseFitsMode t := by
  induction h with
  | refl => exact hs
  | tail _ e ih => exact e.keeps_phaseFits ha ih

/-- Settles O56: an own step is agent L's, phase by phase, or a chain of effects of another actor. -/
theorem phaseFollowsMode : Obligations.PhaseFollowsMode := by
  refine ⟨.of_iterStart rfl, fun i s t hown _ hs h => ?_⟩
  cases i with
  | timerStrobe => exact (execTimerStrobe_effects h).keeps_phaseFits nofun hs
  | tick d => exact (execTick_effects h).keeps_phaseFits nofun hs
  | loopIter q => exact agentLStep_phaseFits hs h
  | envTime d => exact (execEnvTime_effects h).keeps_phaseFits nofun hs
  | envHostByte b => cases h; exact hs.congr rfl rfl
  | envWdtExpire d => exact (execEnvWdtExpire_effects h).keeps_phaseFits nofun hs
  | tickRx | tickTx | rxDrain | rxCmd | cmdPttDown | cmdTuneTo | cmdFilters | cmdIgnore | cmdAbandon | txScan | txIngest
  | txSwap | cmdPttUp | cmdTxIgnore | modeEnterTx | modeEnterRx | guardCheck | wdtKick | reset | framePttDown
  | frameTuneTo | frameFilters | frameIgnore | framePttUp | frameTxIgnore => exact absurd hown Bool.false_ne_true

end Sys2Proof.Machine
end

section
/-! SUPPORT. The collector's steps (43_framer.md section 1): the start, a header byte, the parameters with their command, and
the deadline. -/

namespace Sys2Proof.Machine

/-! ### The start and the header (R127 to R129) -/

theorem collectorStep_start {s : State} (hp : s.loopPhase = .rxCmd) (hs : s.rxcState = .idle) :
    collectorStep s = .next (collectorStart s) := by
  simp only [collectorStep, hs, hp, if_true]

/-- Settles O13: the start step writes RXC_STATE and RXC_CNT. -/
theorem collectorStartsAHeader : Obligations.CollectorStartsAHeader := fun s hp hs =>
  ⟨collectorStart s, collectorStep_start hp hs, rfl, by simp [collectorStart, errorEvents, Entry.isEvent]⟩

/-- The state in which the ninth byte is dispatched (R128). -/
def selectorRead (b : Byte) (rest : List Byte) (s : State) : State :=
  { recordOp .rxCmd .none s with hostIn := rest, rxcSel := b, rxcCnt := 0 }

@[simp] theorem errorEvents_selectorRead (b : Byte) (rest : List Byte) (s : State) :
    errorEvents (selectorRead b rest s) = errorEvents s := errorEvents_recordOp .rxCmd .none s

/-- The collector's step on the ninth byte is the dispatch of its selector (R128, R129). -/
theorem collectorStep_select {s : State} {b : Byte} {rest : List Byte} (hs : s.rxcState = .hdr)
    (hb : s.hostIn = b :: rest) (hc : s.rxcCnt = 8) :
    collectorStep s = .next (dispatchSelector (selectorRead b rest s)) := by
  rw [collectorStep_hdr hs, headerByte_select hb hc, selectorRead]

/-- Settles O14: a byte is counted, or its selector is dispatched to PTT_DOWN, to the parameter wait or to CMD.IGNORE. -/
theorem headerByteIsCountedOrDispatched : Obligations.HeaderByteIsCountedOrDispatched := by
  intro s b rest hs hb
  refine ⟨fun hc => ?_, fun hc h1 => ?_, fun hc hpar => ?_, fun hc h1 h3 h4 => ?_⟩
  · refine ⟨headerCounted 1 rest s, ?_, rfl, ?_⟩
    · exact (collectorStep_hdr hs).trans (congrArg _ (headerByte_count hb hc))
    · simp [headerCounted, recordRxCmds, errorEvents, Entry.isEvent]
  · refine ⟨_, (collectorStep_select hs hb hc).trans (congrArg _ (dispatchSelector_pttDown h1)), ?_, by simp⟩
    simp [unlogged, pttDown, selectorRead]
  · refine ⟨_, (collectorStep_select hs hb hc).trans (congrArg _ (dispatchSelector_params hpar)), rfl, ?_⟩
    simp [beginParams, selectorRead, errorEvents, Entry.isEvent]
  · have hsel : ignoredInReceive b = true := by simpa [ignoredInReceive] using ⟨⟨h1, h3⟩, h4⟩
    refine ⟨_, (collectorStep_select hs hb hc).trans (congrArg _ (dispatchSelector_ignored hsel)), ?_,
      by simp [ignoreCommand]⟩
    have hread : unlogged (ignoreCommand (selectorRead b rest s)) =
        unlogged { s with hostIn := rest, rxcSel := b, rxcCnt := 0 } := rfl
    exact congrArg completeCommand hread

/-! ### The parameters (R131) -/

/-- The state in which the command runs: its n parameter bytes taken and stored (R131). -/
def paramsTaken (n : Nat) (s : State) : State :=
  { recordOp .rxCmd .none s with hostIn := s.hostIn.drop n, rxcPbuf := memWriteRun s.rxcPbuf 0 (s.hostIn.take n) }

@[simp] theorem errorEvents_paramsTaken (n : Nat) (s : State) : errorEvents (paramsTaken n s) = errorEvents s :=
  errorEvents_recordOp .rxCmd .none s

/-- With its bytes available the parameter step stores them and runs the command, whatever the time (R131). -/
theorem collectorStep_params {s : State} (hs : s.rxcState = .param) (h : paramsWanted s ≤ s.hostIn.length) :
    collectorStep s =
      andThen (runParamCommand (paramsTaken (paramsWanted s) s)) fun t => .next (completeCommand t) :=
  (collectorStep_param hs).trans (paramStep_available (decide_eq_true h))

/-- The slots of RXC_PBUF hold the bytes taken, by position. -/
theorem slot_paramsTaken {n : Nat} {s : State} (h : n ≤ s.hostIn.length) (j : Nat) :
    slot (paramsTaken n s) .rxcPbuf j = if j < n then s.hostIn.getD j 0 else slot s .rxcPbuf j := by
  have hslot := slot_after_writes .rxcPbuf .rxcPbuf 0 j (s.hostIn.take n) s
  have hlen : (s.hostIn.take n).length = n := List.length_take_of_le h
  simp only [true_and, Nat.zero_le, Nat.zero_add, Nat.sub_zero, hlen] at hslot
  refine Eq.trans (slot_congr rfl rfl j) (hslot.trans (ite_congr rfl (fun hj => ?_) fun _ => rfl))
  rw [List.getD_eq_getElem?_getD, List.getD_eq_getElem?_getD, List.getElem?_take_of_lt hj]

/-- A field of the parameters is the stretch of host bytes at its position (R69, R73). -/
theorem field_paramsTaken {n i m : Nat} {s : State} (h : n ≤ s.hostIn.length) (hfit : i + m ≤ n) :
    ((List.range m).map fun k => slot (paramsTaken n s) .rxcPbuf (i + k)) = (s.hostIn.drop i).take m := by
  rw [← map_getD_range s.hostIn (hfit.trans h)]
  refine List.map_congr_left fun k hk => ?_
  have hk := List.mem_range.mp hk
  rw [slot_paramsTaken h, if_pos (by omega)]

/-- TUNE_TO requests the four fields of the 17 bytes taken (R136). -/
theorem runParamCommand_tuneTo_taken {s : State} (hsel : s.rxcSel = 3) (h : 17 ≤ s.hostIn.length) :
    runParamCommand (paramsTaken 17 s) =
      .next (emit
        (.radio (.tune (s.hostIn.take 7) ((s.hostIn.drop 7).take 7) ((s.hostIn.drop 14).take 2) (s.hostIn.getD 16 0)))
        (enterRx (recordOp .cmdTuneTo .none (paramsTaken 17 s)))) := by
  have hrun : runParamCommand (paramsTaken 17 s) = tuneTo (paramsTaken 17 s) := if_pos hsel
  rw [hrun, tuneTo_eq, field_paramsTaken h (by omega), field_paramsTaken h (by omega), field_paramsTaken h (by omega),
    slot_paramsTaken h, if_pos (by omega), List.drop_zero]

/-- Settles O15: the 17 bytes are taken, the command requests their fields and completes in Receive. -/
theorem tuneToCompletesWithItsParameters : Obligations.TuneToCompletesWithItsParameters := by
  intro s hs hsel h
  have hwanted : paramsWanted s = 17 := if_pos hsel
  have hstep := collectorStep_params hs (hwanted.trans_le h)
  rw [hwanted, runParamCommand_tuneTo_taken hsel h, andThen_next] at hstep
  refine ⟨_, hstep, ?_, fun j => ?_, by simp⟩
  · simp [unlogged, paramsTaken, Emission.hostBytes, Emission.requests, Emission.samples, Emission.kicks]
  · exact Eq.trans (slot_congr (by simp [getArray]) (by simp) j) (slot_paramsTaken h j)

/-- FILTERS requests the flags of the 3 bytes taken and the bytes themselves (R138). -/
theorem runParamCommand_filters_taken {s : State} {e h l : Byte} {rest : List Byte} (hsel : s.rxcSel = 4)
    (hb : s.hostIn = e :: h :: l :: rest) :
    runParamCommand (paramsTaken 3 s) =
      .next (emit (.radio (.filters (filterFlag e) (filterFlag h) (filterFlag l) [e, h, l]))
        (recordOp .cmdFilters .none (paramsTaken 3 s))) := by
  have hrun : runParamCommand (paramsTaken 3 s) = setFilters (paramsTaken 3 s) := if_neg (by simp [paramsTaken, hsel])
  have hslot := slot_paramsTaken (n := 3) (s := s) (by simp [hb])
  rw [hrun, setFilters_eq]
  simp [hslot, hb]

/-- Settles O16: the 3 bytes are taken, the command requests their flags and completes in the mode it finds. -/
theorem filtersCompletesWithItsParameters : Obligations.FiltersCompletesWithItsParameters := by
  intro s e h l rest hs hsel hb
  have hwanted : paramsWanted s = 3 := if_neg (by simp [hsel])
  have hlen : 3 ≤ s.hostIn.length := by simp [hb]
  have hstep := collectorStep_params hs (hwanted.trans_le hlen)
  rw [hwanted, runParamCommand_filters_taken hsel hb, andThen_next] at hstep
  refine ⟨_, hstep, ?_, fun j => ?_, by simp⟩
  · simp [unlogged, paramsTaken, hb, filterFlag_eq, Emission.hostBytes, Emission.requests, Emission.samples,
      Emission.kicks]
  · exact Eq.trans (slot_congr (by simp [getArray]) (by simp) j) (slot_paramsTaken hlen j)

/-! ### The deadline (R131, R132) -/

@[simp] theorem errorEvents_abandon (s : State) :
    errorEvents (abandon s) = errorEvents s ++ [⟨s.now, .event .cmdTimeout, .timeout s.rxcSel s.hostIn.length⟩] := by
  simp [abandon, errorEvents, Entry.isEvent, hostAvail]

/-- An abandoned command leaves the FIFO empty and nothing else changed (R132). -/
theorem unlogged_abandon (s : State) : unlogged (abandon s) = unlogged { s with hostIn := [] } := by
  simp [unlogged, abandon, hostAvail, hostDrop]

/-- Short of its bytes at the deadline the command is abandoned (R131). -/
theorem collectorStep_timedOut {s : State} (hs : s.rxcState = .param) (hb : s.hostIn.length < paramsWanted s)
    (ht : s.cfg.paramTimeoutUs ≤ elapsed s s.rxcT0) :
    collectorStep s = .next (completeCommand (abandon (recordOp .rxCmd .none s))) := by
  have hav : ¬paramsAvailable s = true := fun h => Nat.not_le.mpr hb (of_decide_eq_true h)
  have hto : paramTimedOut s = true := decide_eq_true ht
  rw [collectorStep_param hs, paramStep, if_neg hav, if_pos hto]

theorem execCmdAbandon_timedOut {s : State} (hs : s.rxcState = .param) (hb : s.hostIn.length < paramsWanted s)
    (ht : s.cfg.paramTimeoutUs ≤ elapsed s s.rxcT0) : execCmdAbandon s = .next (abandon s) := by
  refine if_pos ?_
  simp [abandonEnabled, paramsAvailable, paramTimedOut, hostAvail, hs, Nat.not_le.mpr hb, ht]

/-- Settles O17: the collector's step is CMD.ABANDON and the completion behind it. -/
theorem timedOutCommandIsAbandoned : Obligations.TimedOutCommandIsAbandoned := by
  intro s hs hb ht
  refine ⟨⟨_, collectorStep_timedOut hs hb ht, ?_, by simp⟩, ⟨_, execCmdAbandon_timedOut hs hb ht, ?_, by simp⟩⟩
  · exact congrArg completeCommand (unlogged_abandon (recordOp .rxCmd .none s))
  · exact unlogged_abandon s

/-! ### Commands alone (R134, R139, R146) -/

theorem execCmdPttDown_receive {s : State} (hm : s.mode = .receive) : execCmdPttDown s = .next (pttDown s) := by
  simp only [execCmdPttDown, hm]

/-- Settles O19: in Receive the command is its entry and MODE.ENTER_TX. -/
theorem pttDownEntersTransmit : Obligations.PttDownEntersTransmit := fun s hm =>
  ⟨pttDown s, execCmdPttDown_receive hm, by simp [unlogged, pttDown], by simp⟩

/-- Settles O21: each command is its entry. -/
theorem ignoredCommandsChangeNothing : Obligations.IgnoredCommandsChangeNothing := fun _ _ =>
  ⟨fun _ => rfl, fun _ => rfl⟩

/-- In Transmit a Receive-mode selector is CMD.TX_IGNORE (R134, R137, R146). -/
theorem receiveCommands_transmit {s : State} (hm : s.mode = .transmit) :
    execCmdPttDown s = .next (ignoreInTransmit 1 s) ∧ execCmdTuneTo s = .next (ignoreInTransmit 3 s) ∧
      execCmdFilters s = .next (ignoreInTransmit 4 s) := by
  simp only [execCmdPttDown, execCmdTuneTo, execCmdFilters, hm, and_self]

theorem execCmdPttUp_transmit {s : State} (hm : s.mode = .transmit) : execCmdPttUp s = .next (pttUp s) := by
  simp only [execCmdPttUp, hm]

theorem execCmdPttUp_receive {s : State} (hm : s.mode = .receive) :
    execCmdPttUp s = .next (recordOp .cmdIgnore (.byte pttUpSelector) s) := by
  simp only [execCmdPttUp, hm]

/-- Settles O24: in Transmit the command is its entry and MODE.ENTER_RX; outside its mode each command is one entry. -/
theorem pttUpEntersReceive : Obligations.PttUpEntersReceive := by
  intro s
  refine ⟨fun hm => ?_, fun hm => ?_, fun hm => ?_⟩
  · exact ⟨pttUp s, execCmdPttUp_transmit hm, by simp [unlogged, pttUp], by simp [errorEvents_pttUp]⟩
  · exact ⟨execCmdPttUp_receive hm, fun _ => rfl⟩
  · obtain ⟨hdown, htune, hfilters⟩ := receiveCommands_transmit hm
    exact ⟨hdown, htune, hfilters, rfl⟩

end Sys2Proof.Machine
end

section
/-! SUPPORT. The Transmit-mode scan (43_framer.md section 2): one chunk and its classification, and the delimiter count. -/

namespace Sys2Proof.Machine

/-! ### One chunk (R143, R144) -/

theorem scanLoop_eq_scanBytes (c : Nat) (bs : List Byte) : scanLoop bs c [] [] = scanBytes c bs := scanLoop_eq c bs [] []

/-- What the scan of the next k host bytes finds. -/
def chunkResult (k : Nat) (s : State) : ScanResult := scanBytes s.dlmCnt (s.hostIn.take k)

/-- The state after the next k host bytes have been read and counted, without the scan's entries (R143). -/
def chunkCounted (k : Nat) (s : State) : State :=
  { s with hostIn := s.hostIn.drop k, dlmCnt := (chunkResult k s).dlmCnt }

/-- The state in which a scan of k bytes acts on what it found: its entry made, the bytes read and counted, an entry made for
each ignored selector (R143, R146). -/
def chunkClassified (k : Nat) (s : State) : State :=
  (chunkResult k s).ignored.foldl (fun s b => ignoreInTransmit b s) (chunkCounted k (recordOp .txScan (.count k) s))

theorem unlogged_chunkClassified (k : Nat) (s : State) : unlogged (chunkClassified k s) = unlogged (chunkCounted k s) := by
  rw [chunkClassified, ignored_foldl]
  rfl

theorem errorEvents_chunkClassified (k : Nat) (s : State) : errorEvents (chunkClassified k s) = errorEvents s := by
  simp [chunkClassified, ignored_foldl, chunkCounted, errorEvents, Entry.isEvent]

/-- With no host byte the scan ends the iteration at once (R143). -/
theorem scan_empty {s : State} (hk : chunkLen s = 0) :
    scan s = .next { recordOp .txScan (.count 0) s with loopPhase := .iterStart } := by
  simp [scan, hk]

/-- With host bytes the scan classifies a chunk, then runs what its result asks for and ends the iteration (R143). -/
theorem scan_chunk {s : State} (hk : chunkLen s ≠ 0) :
    scan s =
      andThen (scanFinish (chunkResult (chunkLen s) s) (chunkClassified (chunkLen s) s))
        fun t => .next { t with loopPhase := .iterStart } := if_neg hk

theorem scanFinish_pttUp {r : ScanResult} (h : r.pttUp = true) (s : State) : scanFinish r s = .next (pttUp s) := if_pos h

theorem scanFinish_empty {r : ScanResult} (h : r.pttUp = false) (hp : r.payload = []) (s : State) :
    scanFinish r s = .next s := by
  simp [scanFinish, h, hp]

theorem scanFinish_ingest {r : ScanResult} (h : r.pttUp = false) (hp : r.payload ≠ []) (s : State) :
    scanFinish r s = ingest r.payload s := by
  simp [scanFinish, h, hp]

theorem execTxScan_enabled {s : State} (hp : s.loopPhase = .txBranch) (hm : s.mode = .transmit)
    (hg : guardFires s = false) : execTxScan s = scan s :=
  if_pos (by simp [scanEnabled, hp, hm, hg])

/-- Settles O22: an empty chunk, PTT_UP, no payload, and a payload, which TX.INGEST takes whatever the phase and the
history. -/
theorem scanTakesOneChunk : Obligations.ScanTakesOneChunk := by
  intro s hp hm hg k r s0
  have hexec : exec .txScan s = scan s := execTxScan_enabled hp hm hg
  have hk : k = chunkLen s := rfl
  have hr : r = chunkResult k s := scanLoop_eq_scanBytes s.dlmCnt (s.hostIn.take k)
  have hs0 : s0 = chunkCounted k s := by simp only [s0, hr, chunkCounted]
  have hcounted : unlogged (chunkClassified k s) = unlogged s0 := (unlogged_chunkClassified k s).trans (by rw [hs0])
  have hevents := errorEvents_chunkClassified k s
  have hscan (hne : k ≠ 0) :
      exec .txScan s = andThen (scanFinish r (chunkClassified k s)) fun t => .next { t with loopPhase := .iterStart } :=
    hexec.trans ((scan_chunk hne).trans (by rw [hr, hk]))
  refine ⟨fun h0 => ?_, fun hne hup => ?_, fun hne hup hpay => ?_, fun hne hup hpay _ => ?_⟩
  · exact ⟨_, hexec.trans (scan_empty h0), rfl, by simp [errorEvents, Entry.isEvent]⟩
  · have hrun := hscan hne
    rw [scanFinish_pttUp hup, andThen_next] at hrun
    refine ⟨_, hrun, ?_, (errorEvents_pttUp _).trans (by simp [hevents])⟩
    exact congrArg (fun u : State => { enterRx u with history := [], loopPhase := .iterStart }) hcounted
  · have hrun := hscan hne
    rw [scanFinish_empty hup hpay, andThen_next] at hrun
    refine ⟨_, hrun, ?_, hevents.trans (List.append_nil _).symm⟩
    exact congrArg (fun u : State => { u with loopPhase := .iterStart }) hcounted
  · have hphase : withoutPhase (chunkClassified k s) = withoutPhase s0 :=
      congrArg (fun u : State => { u with loopPhase := .iterStart }) hcounted
    obtain ⟨v, w, hv, hw, hrest, hsame⟩ := ingest_congr r.payload hphase hevents
    have hrun := hscan hne
    rw [scanFinish_ingest hup hpay, hv, andThen_next] at hrun
    exact ⟨_, w, hrun, hw, hrest, hsame⟩

/-! ### The delimiter count (R141, R149) -/

/-- A byte keeps the count's meaning: the bytes counted are the last ones of the payload (R141). -/
theorem delim_take_matchDelim {c : Nat} {p : List Byte} (b : Byte) (h : Config.delim.take c <:+ p) :
    Config.delim.take (matchDelim c b) <:+ p ++ [b] := by
  unfold matchDelim
  split
  next hb =>
    rw [List.take_add_one, hb, Option.toList_some]
    exact (List.suffix_append_inj_of_length_eq rfl).mpr ⟨h, rfl⟩
  · exact List.nil_suffix

/-- Whatever is scanned behind a payload that ends in the bytes counted, the payload then ends in the bytes counted. -/
theorem delim_take_scanBytes {c : Nat} {p : List Byte} (bs : List Byte) (h : Config.delim.take c <:+ p) :
    Config.delim.take (scanBytes c bs).dlmCnt <:+ p ++ (scanBytes c bs).payload := by
  induction bs generalizing c p with
  | nil => simpa [scanBytes] using h
  | cons b bs ih =>
    rw [scanBytes]
    split
    · split
      · exact List.nil_suffix
      · exact ih List.nil_suffix
    · simpa using ih (delim_take_matchDelim b h)

/-- A byte that is not the one expected resets the count (R141). -/
theorem matchDelim_of_ne {c : Nat} {b : Byte} (h : b ≠ Config.delim.getD c 0) : matchDelim c b = 0 :=
  if_neg fun hb => h (by rw [List.getD_eq_getElem?_getD, hb, Option.getD_some])

theorem scanBytes_singleton_dlmCnt {c : Nat} (b : Byte) (hc : c ≠ 8) : (scanBytes c [b]).dlmCnt = matchDelim c b := by
  simp [scanBytes, hc]

/-- Settles O23: at count 8 the payload ends in all of the delimiter; a mismatch and the stream of R142 are evaluated. -/
theorem delimiterIsMatchedOnlyAfterTheDelimiter : Obligations.DelimiterIsMatchedOnlyAfterTheDelimiter := by
  refine ⟨fun bs _ h8 => ?_, fun c b hc hb => ?_, by decide⟩
  · have hsuffix := delim_take_scanBytes (c := 0) (p := []) bs List.nil_suffix
    rw [h8, List.nil_append] at hsuffix
    obtain ⟨before, h⟩ := hsuffix
    exact ⟨before, h.symm⟩
  · rw [scanBytes_singleton_dlmCnt b hc.ne, matchDelim_of_ne hb]

end Sys2Proof.Machine
end

section
/-! SUPPORT. Mode control (44_mode_control.md): the two mode transitions, the guard, the kick, and LOOP.ITER phase by phase. -/

namespace Sys2Proof.Machine

/-! ### The mode transitions (R151, R153) -/

theorem errorEvents_enterTx (s : State) : errorEvents (enterTx s) = errorEvents s :=
  errorEvents_recordOp .modeEnterTx .none s

/-- Settles O31: the state MODE.ENTER_TX builds is the named one. -/
theorem enterTransmitWritesItsRegisters : Obligations.EnterTransmitWritesItsRegisters := fun s =>
  ⟨enterTx s, rfl, rfl, by simp [errorEvents_enterTx]⟩

/-- In Receive the four registers of MODE.ENTER_RX hold what it writes (R48, R153). -/
theorem unlogged_enterRx_receive {s : State} (h : Inv s) (hm : s.mode = .receive) : unlogged (enterRx s) = unlogged s := by
  have hen : s.txEn = false := by simpa [hm] using h.txEn_iff
  have hguard : s.guardValid = false := by simpa [hm] using h.guard_iff
  simp [unlogged, hm, hen, hguard, h.guardStart_zero hguard]

/-- Settles O32: the state MODE.ENTER_RX builds is the named one, and in Receive the state itself. -/
theorem enterReceiveWritesItsRegisters : Obligations.EnterReceiveWritesItsRegisters := fun s =>
  ⟨⟨enterRx s, rfl, rfl, by simp⟩, fun hs hm => ⟨enterRx s, rfl, unlogged_enterRx_receive hs hm, by simp⟩⟩

/-! ### The guard (R155) -/

theorem guardFires_iff {s : State} :
    guardFires s = true ↔ s.guardValid = true ∧ s.cfg.runawayMaxUs < elapsed s s.guardStart := by
  simp [guardFires]

/-- A guard that fires raises E_RUNAWAY and performs MODE.ENTER_RX. -/
theorem checkGuard_firing {s : State} (h : guardFires s = true) :
    checkGuard s =
      enterRx (raiseEvent .runaway (.count (elapsed s s.guardStart)) (recordOp .guardCheck .none s)) := if_pos h

theorem unlogged_checkGuard_firing {s : State} (h : guardFires s = true) :
    unlogged (checkGuard s) =
      unlogged { s with mode := .receive, txEn := false, guardValid := false, guardStart := 0 } := by
  simp [unlogged, checkGuard_firing h]

theorem errorEvents_checkGuard_firing {s : State} (h : guardFires s = true) :
    errorEvents (checkGuard s) = errorEvents s ++ [⟨s.now, .event .runaway, .count (elapsed s s.guardStart)⟩] := by
  simp [checkGuard_firing h]

/-- Settles O33: the guard fires, or its check is one entry. -/
theorem guardFiresStrictlyAfterTheBound : Obligations.GuardFiresStrictlyAfterTheBound := by
  intro s e
  refine ⟨fun h => ?_, fun h => ?_⟩
  · have hfires : guardFires s = true := guardFires_iff.mpr h
    exact ⟨checkGuard s, rfl, unlogged_checkGuard_firing hfires, errorEvents_checkGuard_firing hfires⟩
  · have hquiet : guardFires s = false := by
      rw [Bool.eq_false_iff, Ne, guardFires_iff]
      rintro ⟨hvalid, hlt⟩
      rcases h with h | h
      · simp [hvalid] at h
      · exact Nat.not_lt.mpr h hlt
    refine ⟨checkGuard s, rfl, ?_, ?_⟩
    · rw [checkGuard_quiet hquiet]; rfl
    · simp [checkGuard_quiet hquiet]

/-! ### The kick and the iteration start (R158, R160) -/

theorem errorEvents_kickWatchdog (s : State) : errorEvents (kickWatchdog s) = errorEvents s :=
  (errorEvents_emit (.wdtKick s.now) { recordOp .wdtKick .none s with wdtLast := s.now }).trans
    (errorEvents_recordOp .wdtKick .none s)

/-- Settles O34: the state WDT.KICK builds is the named one. -/
theorem kickRecordsNow : Obligations.KickRecordsNow := fun s =>
  ⟨kickWatchdog s, rfl, rfl, by simp [errorEvents_kickWatchdog]⟩

theorem agentLStep_iterStart {s : State} (q : DrainDraw) (hp : s.loopPhase = .iterStart) :
    agentLStep q s = .next (iterStart s) := by simp only [agentLStep, hp]

@[simp] theorem iterStart_cfg (s : State) : (iterStart s).cfg = s.cfg := by simp [iterStart]
@[simp] theorem iterStart_mode (s : State) : (iterStart s).mode = s.mode := by simp [iterStart]
@[simp] theorem iterStart_now (s : State) : (iterStart s).now = s.now := by simp [iterStart]
@[simp] theorem iterStart_guardValid (s : State) : (iterStart s).guardValid = s.guardValid := by simp [iterStart]
@[simp] theorem iterStart_guardStart (s : State) : (iterStart s).guardStart = s.guardStart := by simp [iterStart]

theorem errorEvents_iterStart (s : State) : errorEvents (iterStart s) = errorEvents s :=
  (errorEvents_kickWatchdog (recordOp .loopIter .none s)).trans (errorEvents_recordOp .loopIter .none s)

/-- The branch of an iteration start (R160). -/
theorem iterStart_loopPhase (s : State) :
    (iterStart s).loopPhase =
      if s.mode = .transmit then .txBranch else if s.hostIn = [] then .rxDrain else .rxCmd := by
  cases hm : s.mode with
  | transmit => simp [iterStart, hm]
  | receive => cases hb : s.hostIn <;> simp [iterStart, hm, hostAvail, hb]

/-- But for the branch an iteration start is the kick. -/
theorem unlogged_iterStart (s : State) :
    unlogged (iterStart s) = unlogged
      { s with wdtLast := s.now, wdtKick := s.wdtKick ++ [s.now], loopPhase := (iterStart s).loopPhase } := by
  simp [unlogged, iterStart]

/-- Settles O35: the kick, then the branch. -/
theorem iterationKicksThenBranches : Obligations.IterationKicksThenBranches := by
  intro s q hp
  refine ⟨iterStart s, agentLStep_iterStart q hp, ?_, by simp [errorEvents_iterStart]⟩
  rw [unlogged_iterStart, iterStart_loopPhase]

/-! ### The other phases (R160) -/

theorem agentLStep_txBranch {s : State} (q : DrainDraw) (hp : s.loopPhase = .txBranch) : agentLStep q s = txBranch s := by
  simp only [agentLStep, hp]

theorem agentLStep_rxDrain {s : State} (q : DrainDraw) (hp : s.loopPhase = .rxDrain) :
    agentLStep q s = drainStep q s := by
  simp only [agentLStep, hp]

/-- Phase TX_BRANCH with the guard firing is the guard check and the end of the iteration. -/
theorem txBranch_firing {s : State} (h : guardFires s = true) :
    txBranch s = .next { checkGuard s with loopPhase := .iterStart } := if_pos h

/-- But for the history, what a scan of k bytes acts on is a function of the state without its history. -/
theorem unlogged_chunkClassified_congr {s t : State} (k : Nat) (h : unlogged s = unlogged t) :
    unlogged (chunkClassified k s) = unlogged (chunkClassified k t) := by
  rw [unlogged_chunkClassified, unlogged_chunkClassified]
  exact congrArg (chunkCounted k) h

/-- What a scan does with its result reads no history (R143, R167). -/
theorem scanFinish_congr {r : ScanResult} {s t : State} (h : unlogged s = unlogged t)
    (hevents : errorEvents s = errorEvents t) :
    ∃ s' t', scanFinish r s = .next s' ∧ scanFinish r t = .next t' ∧ withoutPhase s' = withoutPhase t' ∧
      errorEvents s' = errorEvents t' := by
  have hphase : withoutPhase s = withoutPhase t := congrArg (fun u : State => { u with loopPhase := .iterStart }) h
  cases hup : r.pttUp with
  | true =>
    refine ⟨_, _, scanFinish_pttUp hup s, scanFinish_pttUp hup t, ?_, by simp [errorEvents_pttUp, hevents]⟩
    exact congrArg (fun u : State => unlogged (enterRx u)) hphase
  | false =>
    by_cases hpay : r.payload = []
    · exact ⟨s, t, scanFinish_empty hup hpay s, scanFinish_empty hup hpay t, hphase, hevents⟩
    · rw [scanFinish_ingest hup hpay, scanFinish_ingest hup hpay]
      exact ingest_congr r.payload hphase hevents

/-- TX.SCAN reads no history (R167). -/
theorem scan_congr {s t : State} (h : unlogged s = unlogged t) (hevents : errorEvents s = errorEvents t) :
    CompleteAlike (scan s) (scan t) := by
  have hlen : chunkLen s = chunkLen t := (congrArg chunkLen h :)
  have hresult : chunkResult (chunkLen t) s = chunkResult (chunkLen t) t := (congrArg (chunkResult _) h :)
  by_cases hk : chunkLen t = 0
  · refine ⟨_, _, scan_empty (hlen.trans hk), scan_empty hk, ?_, ?_⟩
    · exact congrArg (fun u : State => { u with loopPhase := .iterStart }) h
    · exact (errorEvents_recordOp .txScan (.count 0) s).trans
        (hevents.trans (errorEvents_recordOp .txScan (.count 0) t).symm)
  · obtain ⟨s', t', hs', ht', hrest, hsame⟩ := scanFinish_congr (r := chunkResult (chunkLen t) t)
      (unlogged_chunkClassified_congr (chunkLen t) h)
      ((errorEvents_chunkClassified _ s).trans (hevents.trans (errorEvents_chunkClassified _ t).symm))
    rw [scan_chunk (hlen.trans_ne hk), scan_chunk hk, hlen, hresult, hs', ht', andThen_next, andThen_next]
    exact ⟨_, _, rfl, rfl, hrest, hsame⟩

/-- Settles O36: one lemma for each phase; the scan behind the guard check reads no entry of it. -/
theorem iterationRunsTheStepOfItsPhase : Obligations.IterationRunsTheStepOfItsPhase := by
  intro s q
  refine ⟨fun hp hg => ?_, fun hp hg hm _ => ?_, agentLStep_rxCmd q, agentLStep_rxDrain q⟩
  · refine ⟨_, (agentLStep_txBranch q hp).trans (txBranch_firing hg), ?_, errorEvents_checkGuard_firing hg⟩
    exact congrArg (fun u : State => { u with loopPhase := .iterStart }) (unlogged_checkGuard_firing hg)
  · change CompleteAlike (agentLStep q s) (execTxScan s)
    rw [agentLStep_txBranch q hp, txBranch_quiet hm hg, execTxScan_enabled hp hm hg]
    exact scan_congr rfl (errorEvents_recordOp .guardCheck .none s)

/-! ### A Transmit iteration (R156, R163) -/

/-- With the guard firing phase TX_BRANCH ends the iteration in Receive, with TX_EN deasserted (R155). -/
theorem txBranch_firing_ends {s : State} (h : guardFires s = true) :
    ∃ t, txBranch s = .next t ∧ t.loopPhase = .iterStart ∧ t.mode = .receive ∧ t.txEn = false ∧ t.guardValid = false ∧
      errorEvents t = errorEvents s ++ [⟨s.now, .event .runaway, .count (elapsed s s.guardStart)⟩] :=
  ⟨_, txBranch_firing h, rfl, by simp [checkGuard_firing h], by simp [checkGuard_firing h],
    by simp [checkGuard_firing h], errorEvents_checkGuard_firing h⟩

/-- With the guard quiet the scan ends the iteration, whatever the FIFO holds (R143). -/
theorem txBranch_quiet_ends {s : State} (hm : s.mode = .transmit) (hg : guardFires s = false) :
    ∃ t, txBranch s = .next t ∧ t.loopPhase = .iterStart := by
  obtain ⟨t, ht⟩ := scan_completes (recordOp .guardCheck .none s)
  exact ⟨t, (txBranch_quiet hm hg).trans ht, scan_ends ht⟩

/-- Two LOOP.ITER steps of a Transmit iteration are its start and its branch. -/
theorem runInstrs_transmitIteration {s : State} (q : DrainDraw) (hm : s.mode = .transmit)
    (hp : s.loopPhase = .iterStart) : runInstrs [.loopIter q, .loopIter q] s = txBranch (iterStart s) := by
  have hstart : exec (.loopIter q) s = .next (iterStart s) := agentLStep_iterStart q hp
  have hbranch : (iterStart s).loopPhase = .txBranch := (iterStart_loopPhase s).trans (if_pos hm)
  rw [runInstrs, hstart, andThen_next, runInstrs_singleton]
  exact agentLStep_txBranch q hbranch

/-- The kick and the branch leave the guard as it is. -/
theorem guardFires_iterStart (s : State) : guardFires (iterStart s) = guardFires s := by
  rw [Bool.eq_iff_iff, guardFires_iff, guardFires_iff]
  simp [elapsed]

/-- Settles O37: whether or not the guard fires the branch ends the iteration, and past the bound it fires. -/
theorem transmitIterationEndsInTwoSteps : Obligations.TransmitIterationEndsInTwoSteps := by
  intro s q hs hm hp
  rw [runInstrs_transmitIteration q hm hp]
  cases hg : guardFires s with
  | true =>
    obtain ⟨t, ht, hend, hmode, hen, hvalid, hevents⟩ := txBranch_firing_ends ((guardFires_iterStart s).trans hg)
    simp only [errorEvents_iterStart, elapsed, iterStart_now, iterStart_guardStart] at hevents
    exact ⟨t, ht, hend, fun _ => ⟨hmode, hen, hvalid, hevents⟩⟩
  | false =>
    obtain ⟨t, ht, hend⟩ := txBranch_quiet_ends ((iterStart_mode s).trans hm) ((guardFires_iterStart s).trans hg)
    have hearly : ¬s.cfg.runawayMaxUs < elapsed s s.guardStart := fun hlate => by
      simp [guardFires_iff.mpr ⟨hs.guard_iff.mpr hm, hlate⟩] at hg
    exact ⟨t, ht, hend, fun hlate => absurd hlate hearly⟩

end Sys2Proof.Machine
end

section
/-! SUPPORT. The mode's edges (R157): which own step can write MODE, and under what condition each phase of agent L does. -/

namespace Sys2Proof.Machine

/-! ### Transmit to Receive (R143, R155) -/

@[simp] theorem appendFilling_mode (bs : List Byte) (s : State) : (appendFilling bs s).mode = s.mode := rfl

@[simp] theorem noteDrop_mode (n : Nat) (s : State) : (noteDrop n s).mode = s.mode := by unfold noteDrop; split <;> rfl

@[simp] theorem swapIfDue_mode (s : State) : (swapIfDue s).mode = s.mode := by unfold swapIfDue; split <;> rfl

theorem ingest_mode {p : List Byte} {s t : State} (h : ingest p s = .next t) : t.mode = s.mode := by
  cases (ingest_eq p s).symm.trans h
  simp

/-- Without a PTT_UP the end of a scan keeps the mode. -/
theorem scanFinish_mode {r : ScanResult} {s t : State} (hup : r.pttUp = false) (h : scanFinish r s = .next t) :
    t.mode = s.mode := by
  by_cases hpay : r.payload = []
  · cases (scanFinish_empty hup hpay s).symm.trans h; rfl
  · exact ingest_mode ((scanFinish_ingest hup hpay s).symm.trans h)

/-- A scan whose chunk has no PTT_UP keeps the mode (R143). -/
theorem scan_mode {s t : State} (hup : (chunkResult (chunkLen s) s).pttUp = false) (h : scan s = .next t) :
    t.mode = s.mode := by
  by_cases hk : chunkLen s = 0
  · cases (scan_empty hk).symm.trans h; rfl
  · obtain ⟨u, hu, ht⟩ := andThen_eq_next.mp ((scan_chunk hk).symm.trans h)
    cases ht
    exact (scanFinish_mode hup hu).trans (congrArg State.mode (unlogged_chunkClassified (chunkLen s) s) :)

/-- In phase TX_BRANCH only the guard or a PTT_UP in the chunk leaves Transmit. -/
theorem txBranch_leavesTransmit {s t : State} (hm : s.mode = .transmit) (h : txBranch s = .next t)
    (ht : t.mode = .receive) :
    guardFires s = true ∨ (scanBytes s.dlmCnt (s.hostIn.take (chunkLen s))).pttUp = true := by
  by_contra hno
  obtain ⟨hg, hup⟩ := not_or.mp hno
  have hscan := (txBranch_quiet hm (Bool.eq_false_of_not_eq_true hg)).symm.trans h
  have hkeep : t.mode = s.mode := scan_mode (s := recordOp .guardCheck .none s) (Bool.eq_false_of_not_eq_true hup) hscan
  simp [hkeep, hm] at ht

/-! ### Receive to Transmit (R129) -/

theorem rxSelector_eq_pttDown {sel : Byte} (h : rxSelector sel = .pttDown) : sel = 1 := by
  unfold rxSelector at h
  split at h
  next h1 => exact h1
  · split at h
    · cases h
    · split at h <;> cases h

/-- Of the selectors only 1 leads from Receive to Transmit. -/
theorem dispatchSelector_leavesReceive {s : State} (hm : s.mode = .receive)
    (ht : (dispatchSelector s).mode = .transmit) : s.rxcSel = 1 := by
  unfold dispatchSelector at ht
  split at ht
  next hsel => exact rxSelector_eq_pttDown hsel
  all_goals exact absurd (hm.symm.trans ht) nofun

/-- Of the header bytes only a ninth one of value 1 leads from Receive to Transmit. -/
theorem headerByte_leavesReceive {s : State} (hc : s.rxcCnt ≤ 8) (hm : s.mode = .receive)
    (ht : (headerByte s).mode = .transmit) : s.rxcCnt = 8 ∧ s.hostIn.head? = some 1 := by
  cases hb : s.hostIn with
  | nil => simp [headerByte, hb, hm] at ht
  | cons b rest =>
    rcases hc.lt_or_eq with hlt | h8
    · rw [headerByte_count hb hlt] at ht
      exact absurd (hm.symm.trans ht) nofun
    · rw [headerByte_select hb h8] at ht
      exact ⟨h8, congrArg some (dispatchSelector_leavesReceive (s := selectorRead b rest s) hm ht)⟩

/-- A command with parameters keeps Receive (R136, R138). -/
theorem runParamCommand_receive {s t : State} (hm : s.mode = .receive) (h : runParamCommand s = .next t) :
    t.mode = .receive := by
  unfold runParamCommand at h
  split at h
  · cases (tuneTo_eq s).symm.trans h; rfl
  · cases (setFilters_eq s).symm.trans h; exact hm

theorem paramStep_receive {s t : State} (hm : s.mode = .receive) (h : paramStep s = .next t) : t.mode = .receive := by
  by_cases ha : paramsAvailable s = true
  · rw [paramStep_available ha] at h
    obtain ⟨u, hu, ht⟩ := andThen_eq_next.mp h
    cases ht
    exact (completeCommand_mode u).trans (runParamCommand_receive (by simpa using hm) hu)
  · unfold paramStep at h
    rw [if_neg ha] at h
    split at h <;> cases h
    · simpa [abandon] using hm
    · exact hm

/-- The collector leaves Receive only at the ninth header byte, with selector 1. -/
theorem collectorStep_leavesReceive {s t : State} (hc : s.rxcCnt ≤ 8) (hm : s.mode = .receive)
    (h : collectorStep s = .next t) (ht : t.mode = .transmit) :
    s.rxcState = .hdr ∧ s.rxcCnt = 8 ∧ s.hostIn.head? = some 1 := by
  unfold collectorStep at h
  split at h
  · split at h <;> cases h <;> exact absurd (hm.symm.trans ht) nofun
  next hs => cases h; exact ⟨hs, headerByte_leavesReceive hc hm ht⟩
  · exact absurd ((paramStep_receive hm h).symm.trans ht) nofun

/-- The drain keeps the mode. -/
theorem drainStep_mode {q : DrainDraw} {s t : State} (hs : Inv s) (h : drainStep q s = .next t) : t.mode = s.mode := by
  unfold drainStep at h
  split at h
  next ha =>
    obtain ⟨-, -, hn, -⟩ := hs.draining ha
    split at h
    next hi => cases (drainCopy_of_lt (by omega)).symm.trans h; rfl
    · split at h
      · split at h
        · cases h; rfl
        · cases (drainCommit_eq _ hn).symm.trans h; rfl
      · cases h; rfl
  · split at h <;> cases h
    · unfold drainStart; dsimp only; split <;> rfl
    · rfl

/-! ### Every own step -/

/-- Agent L leaves Transmit in phase TX_BRANCH alone. -/
theorem agentLStep_leavesTransmit {q : DrainDraw} {s t : State} (hp : PhaseFitsMode s) (hm : s.mode = .transmit)
    (h : agentLStep q s = .next t) (ht : t.mode = .receive) :
    s.loopPhase = .txBranch ∧
      (guardFires s = true ∨ (scanBytes s.dlmCnt (s.hostIn.take (chunkLen s))).pttUp = true) := by
  cases hphase : s.loopPhase with
  | iterStart =>
    cases (agentLStep_iterStart q hphase).symm.trans h
    simp [hm] at ht
  | txBranch => exact ⟨rfl, txBranch_leavesTransmit hm ((agentLStep_txBranch q hphase).symm.trans h) ht⟩
  | rxCmd => exact absurd (hm.symm.trans (hp.2 (.inl hphase))) nofun
  | rxDrain => exact absurd (hm.symm.trans (hp.2 (.inr hphase))) nofun

/-- Agent L leaves Receive in phase RX_CMD alone. -/
theorem agentLStep_leavesReceive {q : DrainDraw} {s t : State} (hs : Inv s) (hp : PhaseFitsMode s)
    (hm : s.mode = .receive) (h : agentLStep q s = .next t) (ht : t.mode = .transmit) :
    s.loopPhase = .rxCmd ∧ s.rxcState = .hdr ∧ s.rxcCnt = 8 ∧ s.hostIn.head? = some 1 := by
  cases hphase : s.loopPhase with
  | iterStart =>
    cases (agentLStep_iterStart q hphase).symm.trans h
    simp [hm] at ht
  | txBranch => exact absurd (hm.symm.trans (hp.1 hphase)) nofun
  | rxCmd => exact ⟨rfl, collectorStep_leavesReceive hs.rxcCnt_le hm ((agentLStep_rxCmd q hphase).symm.trans h) ht⟩
  | rxDrain =>
    have hkeep := drainStep_mode hs ((agentLStep_rxDrain q hphase).symm.trans h)
    exact absurd ((hkeep.trans hm).symm.trans ht) nofun

/-- TICK keeps the mode: agent S does not write it (R21). -/
theorem execTick_mode {d : SampleRead} {s t : State} (h : execTick d s = .next t) : t.mode = s.mode :=
  (congrArg State.mode ((execTick_effects h).view_eq Effect.outsideAgentS_eq) :)

/-- Of the own steps only agent L's and a due watchdog reset write MODE, and the reset writes Receive (R157, R186). -/
theorem ownStep_mode {i : Instr} {s t : State} (hown : ownStep i = true) (h : exec i s = .next t) :
    (∃ q, i = .loopIter q) ∨ (∃ d, i = .envWdtExpire d ∧ watchdogDue s = true ∧ t.mode = .receive) ∨
      t.mode = s.mode := by
  cases i with
  | loopIter q => exact .inl ⟨q, rfl⟩
  | envWdtExpire d =>
    have h : execEnvWdtExpire d s = .next t := h
    unfold execEnvWdtExpire at h
    split at h <;> cases h
    next hdue => exact .inr (.inl ⟨d, rfl, hdue, rfl⟩)
    · exact .inr (.inr rfl)
  | tick d => exact .inr (.inr (execTick_mode h))
  | timerStrobe =>
    have h : execTimerStrobe s = .next t := h
    unfold execTimerStrobe at h
    split at h <;> cases h
    · refine .inr (.inr ?_); split <;> rfl
    · exact .inr (.inr rfl)
  | envTime d =>
    have h : execEnvTime d s = .next t := h
    unfold execEnvTime at h
    split at h <;> cases h <;> exact .inr (.inr rfl)
  | envHostByte b => cases h; exact .inr (.inr rfl)
  | tickRx | tickTx | rxDrain | rxCmd | cmdPttDown | cmdTuneTo | cmdFilters | cmdIgnore | cmdAbandon | txScan | txIngest
  | txSwap | cmdPttUp | cmdTxIgnore | modeEnterTx | modeEnterRx | guardCheck | wdtKick | reset | framePttDown
  | frameTuneTo | frameFilters | frameIgnore | framePttUp | frameTxIgnore => exact absurd hown Bool.false_ne_true

/-- Settles O38: a step that changes the mode is agent L's, which does it in two phases alone, or a watchdog reset. -/
theorem modeChangesOnlyAsTheStateMachineSays : Obligations.ModeChangesOnlyAsTheStateMachineSays := by
  intro i s t hown hs hp h
  rcases ownStep_mode hown h with ⟨q, rfl⟩ | ⟨d, rfl, hdue, hreset⟩ | hkeep
  · exact ⟨fun hm ht => .inr ⟨⟨q, rfl⟩, agentLStep_leavesTransmit hp hm h ht⟩,
      fun hm ht => ⟨⟨q, rfl⟩, agentLStep_leavesReceive hs hp hm h ht⟩⟩
  · exact ⟨fun _ _ => .inl ⟨hdue, d, rfl⟩, fun _ ht => absurd (hreset.symm.trans ht) nofun⟩
  · exact ⟨fun hm ht => absurd ((hkeep.trans hm).symm.trans ht) nofun,
      fun hm ht => absurd ((hkeep.trans hm).symm.trans ht) nofun⟩

end Sys2Proof.Machine
end

section
/-! SUPPORT. The history is an observation channel (R167): no condition and no operand reads it, so that two states which differ
in it alone take the same step. And what the watchdog's expiry does (R175, R187). -/

namespace Sys2Proof.Machine

/-! ### Functions of the state that read no history (R167)

One rule for each form a meaning is made of. That a condition, an operand or a single update reads no history holds by its
definition, but for the reads of an array in a row. -/

/-- With the history replaced f answers the same but for the history. -/
def IgnoresHistory (f : State → Result) : Prop :=
  ∀ (s : State) (h : List Entry), SameButHistory (f { s with history := h }) (f s)

theorem SameButHistory.andThen {r r' : Result} {f : State → Result} (hr : SameButHistory r r')
    (hf : ∀ {s t}, unlogged s = unlogged t → SameButHistory (f s) (f t)) :
    SameButHistory (andThen r f) (andThen r' f) := by
  cases r <;> cases r'
  case next.next => exact hf hr
  case fault.fault | refused.refused => exact hr
  all_goals exact False.elim hr

namespace IgnoresHistory

variable {f f' : State → Result} {g g' : State → State}

theorem congr (hf : IgnoresHistory f) {s t : State} (hst : unlogged s = unlogged t) : SameButHistory (f s) (f t) := by
  rw [eq_of_unlogged hst]
  exact hf t s.history

/-- A next state made by one update. -/
theorem next (hg : ∀ s h, unlogged (g { s with history := h }) = unlogged (g s)) :
    IgnoresHistory fun s => .next (g s) := hg

theorem fault {e : State → Fault} (he : ∀ s h, e { s with history := h } = e s) :
    IgnoresHistory fun s => .fault (e s) := he

/-- f after an update. -/
theorem comp (hf : IgnoresHistory f) (hg : IgnoresHistory fun s => .next (g s)) : IgnoresHistory fun s => f (g s) :=
  fun s h => hf.congr (hg s h)

theorem andThen (hf : IgnoresHistory f) (hf' : IgnoresHistory f') :
    IgnoresHistory fun s => Machine.andThen (f s) f' :=
  fun s h => (hf s h).andThen hf'.congr

/-- It is enough to answer like such a function wherever v has the value a, for each a. -/
theorem of_view {α : Type} (v : State → α) (hv : ∀ s h, v { s with history := h } = v s)
    (hf : ∀ a, ∃ f', IgnoresHistory f' ∧ ∀ s, v s = a → f s = f' s) : IgnoresHistory f := by
  intro s h
  obtain ⟨f', hf', heq⟩ := hf (v s)
  rw [heq s rfl, heq _ (hv s h)]
  exact hf' s h

/-- An operand that is no part of the history can be taken as given. -/
theorem operand {α : Type} {k : α → State → Result} (v : State → α) (hv : ∀ s h, v { s with history := h } = v s)
    (hk : ∀ a, IgnoresHistory (k a)) : IgnoresHistory fun s => k (v s) s :=
  of_view v hv fun a => ⟨k a, hk a, fun s hs => congrArg (k · s) hs⟩

theorem ite {c : State → Prop} [DecidablePred c] (hc : ∀ s h, c { s with history := h } = c s) (hf : IgnoresHistory f)
    (hf' : IgnoresHistory f') : IgnoresHistory fun s => if c s then f s else f' s := by
  intro s h
  by_cases hs : c s
  · simpa only [hc, if_pos hs] using hf s h
  · simpa only [hc, if_neg hs] using hf' s h

theorem next_ite {c : State → Prop} [DecidablePred c] (hc : ∀ s h, c { s with history := h } = c s)
    (hg : IgnoresHistory fun s => .next (g s)) (hg' : IgnoresHistory fun s => .next (g' s)) :
    IgnoresHistory fun s => .next (if c s then g s else g' s) := by
  simpa only [apply_ite] using ite hc hg hg'

theorem byMode (hf : IgnoresHistory f) (hf' : IgnoresHistory f') :
    IgnoresHistory fun s => match s.mode with | .receive => f s | .transmit => f' s :=
  operand (k := fun m s => match m with | .receive => f s | .transmit => f' s) State.mode (fun _ _ => rfl) fun
    | .receive => hf
    | .transmit => hf'

end IgnoresHistory

theorem recordOp_ignoresHistory (o : OpName) (info : Info) : IgnoresHistory fun s => .next (recordOp o info s) :=
  .next fun _ _ => rfl

theorem next_ignoresHistory : IgnoresHistory .next := .next fun _ _ => rfl

/-! ### Arrays -/

theorem readSlots_history (s : State) (h : List Entry) (a : ArrayName) (i n : Nat) :
    readSlots { s with history := h } a i n = readSlots s a i n := by
  induction n generalizing i with
  | zero => rfl
  | succ n ih =>
    have hslot : readSlot { s with history := h } a i = readSlot s a i := rfl
    simp only [readSlots, hslot, ih]

theorem writeSlot_ignoresHistory (a : ArrayName) (i : Nat) (v : Byte) : IgnoresHistory (writeSlot a i v) :=
  .ite (fun _ _ => rfl) (.next fun _ _ => by cases a <;> rfl) (.fault fun _ _ => rfl)

theorem writeSlots_ignoresHistory (a : ArrayName) (i : Nat) (bs : List Byte) : IgnoresHistory (writeSlots a i bs) := by
  induction bs generalizing i with
  | nil => exact next_ignoresHistory
  | cons b bs ih => exact (writeSlot_ignoresHistory a i b).andThen (ih (i + 1))

/-! ### Sampler -/

theorem tickRxPath_ignoresHistory (d : SampleRead) : IgnoresHistory (tickRxPath d) := by
  cases d with
  | fault => exact .next fun _ _ => rfl
  | value v =>
    refine .andThen ?_ (.next fun _ _ => rfl)
    exact .operand State.rxTail (fun _ _ => rfl) fun n =>
      (writeSlot_ignoresHistory .rxBuf n v).comp (recordOp_ignoresHistory .tickRx .none)

theorem tickTxPath_ignoresHistory : IgnoresHistory tickTxPath := by
  refine .ite (fun _ _ => rfl) ?_ (recordOp_ignoresHistory .tickTx .none)
  refine .operand (fun s => readSlot s (playingBuffer s) (tickIndex s)) (fun _ _ => rfl)
    (k := fun o s => match o with
      | some v => .next (sampleDriven v s)
      | none => .fault (.arrayIndex (playingBuffer s) (tickIndex s))) ?_
  rintro (_ | v)
  · exact .fault fun _ _ => rfl
  · exact .next fun _ _ => rfl

theorem execTimerStrobe_ignoresHistory : IgnoresHistory execTimerStrobe := by
  refine .ite (fun _ _ => rfl) (.next fun s h => ?_) next_ignoresHistory
  cases hp : s.tickPending <;> simp [unlogged, hp]

theorem execTick_ignoresHistory (d : SampleRead) : IgnoresHistory (execTick d) :=
  .ite (fun _ _ => rfl)
    (.byMode ((tickRxPath_ignoresHistory d).comp (.next fun _ _ => rfl))
      (tickTxPath_ignoresHistory.comp (.next fun _ _ => rfl)))
    next_ignoresHistory

theorem execTickRx_ignoresHistory (d : SampleRead) : IgnoresHistory (execTickRx d) :=
  .byMode (tickRxPath_ignoresHistory d) next_ignoresHistory

theorem execTickTx_ignoresHistory : IgnoresHistory execTickTx :=
  .byMode next_ignoresHistory tickTxPath_ignoresHistory

/-! ### The drain -/

theorem drainStart_ignoresHistory : IgnoresHistory fun s => .next (drainStart s) :=
  .next_ite (fun _ _ => rfl) (.next fun _ _ => rfl) (.next fun _ _ => rfl)

theorem drainCopy_ignoresHistory : IgnoresHistory drainCopy := by
  refine .operand (fun s => readSlot s .rxBuf (drainSlot s)) (fun _ _ => rfl)
    (k := fun o s => match o with
      | some v => andThen (writeSlot .scratch s.drI v (recordOp .rxDrain .none s)) fun u => .next { u with drI := u.drI + 1 }
      | none => .fault (.arrayIndex .rxBuf (drainSlot s))) ?_
  rintro (_ | v)
  · exact .fault fun _ _ => rfl
  · refine .andThen ?_ (.next fun _ _ => rfl)
    exact .operand State.drI (fun _ _ => rfl) fun i =>
      (writeSlot_ignoresHistory .scratch i v).comp (recordOp_ignoresHistory .rxDrain .none)

theorem squelchGate_ignoresHistory (q : Bool) : IgnoresHistory (squelchGate q) := by
  cases q with
  | false => exact next_ignoresHistory
  | true =>
    exact .operand (fun s => List.replicate s.drN s.cfg.silence) (fun _ _ => rfl) (writeSlots_ignoresHistory .scratch 0)

theorem drainSend_ignoresHistory : IgnoresHistory drainSend := by
  refine .operand (fun s => readSlots s .scratch 0 s.drN) (fun s h => readSlots_history s h .scratch 0 s.drN)
    (k := fun o s => match o with
      | some bs => .next { emit (.hostOut bs) s with drActive := false, loopPhase := .iterStart }
      | none => .fault (.arrayIndex .scratch s.drN)) ?_
  rintro (_ | bs)
  · exact .fault fun _ _ => rfl
  · exact .next fun _ _ => rfl

theorem drainCommit_ignoresHistory (q : Bool) : IgnoresHistory (drainCommit q) :=
  .andThen ((squelchGate_ignoresHistory q).comp (.next fun _ _ => rfl)) drainSend_ignoresHistory

theorem drainStep_ignoresHistory (q : DrainDraw) : IgnoresHistory (drainStep q) :=
  .ite (fun _ _ => rfl)
    (.ite (fun _ _ => rfl) drainCopy_ignoresHistory
      (.ite (fun _ _ => rfl)
        (.ite (fun _ _ => rfl) (.next fun _ _ => rfl) (drainCommit_ignoresHistory q.squelch))
        next_ignoresHistory))
    (.ite (fun _ _ => rfl) drainStart_ignoresHistory next_ignoresHistory)

/-! ### The collector and its commands -/

theorem tuneTo_ignoresHistory : IgnoresHistory tuneTo := by
  intro s h
  rw [tuneTo_eq, tuneTo_eq]
  rfl

theorem setFilters_ignoresHistory : IgnoresHistory setFilters := by
  intro s h
  rw [setFilters_eq, setFilters_eq]
  rfl

theorem completeCommand_ignoresHistory : IgnoresHistory fun s => .next (completeCommand s) := .next fun _ _ => rfl

theorem dispatchSelector_ignoresHistory : IgnoresHistory fun s => .next (dispatchSelector s) := by
  refine .next fun s h => ?_
  unfold dispatchSelector
  dsimp only
  cases rxSelector s.rxcSel <;> rfl

theorem headerByte_ignoresHistory : IgnoresHistory fun s => .next (headerByte s) := by
  refine .operand (k := fun bs s => .next (match bs with
    | [] => s
    | b :: _ => if s.rxcCnt < 8 then { recordOp .rxCmd .none s with hostIn := s.hostIn.drop 1, rxcCnt := s.rxcCnt + 1 }
      else dispatchSelector { recordOp .rxCmd .none s with hostIn := s.hostIn.drop 1, rxcSel := b, rxcCnt := 0 }))
    State.hostIn (fun _ _ => rfl) ?_
  rintro (_ | ⟨b, bs⟩)
  · exact next_ignoresHistory
  · exact .next_ite (fun _ _ => rfl) (.next fun _ _ => rfl) (dispatchSelector_ignoresHistory.comp (.next fun _ _ => rfl))

theorem runParamCommand_ignoresHistory : IgnoresHistory runParamCommand :=
  .ite (fun _ _ => rfl) tuneTo_ignoresHistory setFilters_ignoresHistory

theorem paramStep_ignoresHistory : IgnoresHistory paramStep := by
  refine .ite (fun _ _ => rfl) ?_ (.ite (fun _ _ => rfl) (.next fun _ _ => rfl) next_ignoresHistory)
  refine .andThen ?_ (runParamCommand_ignoresHistory.andThen completeCommand_ignoresHistory)
  exact .operand (fun s => s.hostIn.take (paramsWanted s)) (fun _ _ => rfl) fun bs =>
    (writeSlots_ignoresHistory .rxcPbuf 0 bs).comp
      (g := fun s => hostDrop (paramsWanted s) (recordOp .rxCmd .none s)) (.next fun _ _ => rfl)

theorem collectorStep_ignoresHistory : IgnoresHistory collectorStep :=
  .of_view State.rxcState (fun _ _ => rfl) fun
    | .idle => ⟨fun s => if s.loopPhase = .rxCmd then .next (collectorStart s) else .next s,
        .ite (fun _ _ => rfl) (.next fun _ _ => rfl) next_ignoresHistory, fun _ hs => by simp only [collectorStep, hs]⟩
    | .hdr => ⟨_, headerByte_ignoresHistory, fun _ => collectorStep_hdr⟩
    | .param => ⟨_, paramStep_ignoresHistory, fun _ => collectorStep_param⟩

/-! ### Ingestion and the scan -/

theorem swapIfDue_ignoresHistory : IgnoresHistory fun s => .next (swapIfDue s) :=
  .next_ite (fun _ _ => rfl) (.next fun _ _ => rfl) next_ignoresHistory

theorem appendFilling_ignoresHistory (bs : List Byte) : IgnoresHistory fun s => .next (appendFilling bs s) :=
  .next fun _ _ => rfl

theorem noteDrop_ignoresHistory (n : Nat) : IgnoresHistory fun s => .next (noteDrop n s) :=
  .next_ite (fun _ _ => rfl) (.next fun _ _ => rfl) next_ignoresHistory

theorem ingest_ignoresHistory (p : List Byte) : IgnoresHistory (ingest p) := by
  rw [funext (ingest_eq p)]
  exact .operand (keptBytes p) (fun _ _ => rfl) fun n =>
    swapIfDue_ignoresHistory.comp ((appendFilling_ignoresHistory (p.take n)).comp
      ((noteDrop_ignoresHistory (p.length - n)).comp (recordOp_ignoresHistory .txIngest (.count p.length))))

theorem pttUp_ignoresHistory : IgnoresHistory fun s => .next (pttUp s) := .next fun _ _ => rfl

theorem scanFinish_ignoresHistory (r : ScanResult) : IgnoresHistory (scanFinish r) :=
  .ite (fun _ _ => rfl) pttUp_ignoresHistory (.ite (fun _ _ => rfl) next_ignoresHistory (ingest_ignoresHistory r.payload))

theorem chunkClassified_ignoresHistory (k : Nat) : IgnoresHistory fun s => .next (chunkClassified k s) :=
  .next fun _ _ => unlogged_chunkClassified_congr k rfl

theorem scan_ignoresHistory : IgnoresHistory scan :=
  .of_view chunkLen (fun _ _ => rfl) fun
    | 0 => ⟨_, .next fun _ _ => rfl, fun _ => scan_empty⟩
    | k + 1 =>
      ⟨fun s => andThen (scanFinish (chunkResult (k + 1) s) (chunkClassified (k + 1) s)) fun t =>
          .next { t with loopPhase := .iterStart },
        .andThen
          (.operand (chunkResult (k + 1)) (fun _ _ => rfl) fun r =>
            (scanFinish_ignoresHistory r).comp (chunkClassified_ignoresHistory (k + 1)))
          (.next fun _ _ => rfl),
        fun _ hs => hs ▸ scan_chunk (hs.trans_ne k.succ_ne_zero)⟩

/-! ### The commands on their own -/

theorem execCmdPttDown_ignoresHistory : IgnoresHistory execCmdPttDown :=
  .byMode (.next fun _ _ => rfl) (.next fun _ _ => rfl)

theorem execCmdTuneTo_ignoresHistory : IgnoresHistory execCmdTuneTo :=
  .byMode (.ite (fun _ _ => rfl) tuneTo_ignoresHistory next_ignoresHistory) (.next fun _ _ => rfl)

theorem execCmdFilters_ignoresHistory : IgnoresHistory execCmdFilters :=
  .byMode (.ite (fun _ _ => rfl) setFilters_ignoresHistory next_ignoresHistory) (.next fun _ _ => rfl)

theorem execCmdAbandon_ignoresHistory : IgnoresHistory execCmdAbandon :=
  .ite (fun _ _ => rfl) (.next fun _ _ => rfl) next_ignoresHistory

theorem execTxScan_ignoresHistory : IgnoresHistory execTxScan :=
  .ite (fun _ _ => rfl) scan_ignoresHistory next_ignoresHistory

theorem execCmdPttUp_ignoresHistory : IgnoresHistory execCmdPttUp :=
  .byMode (.next fun _ _ => rfl) pttUp_ignoresHistory

/-! ### The loop -/

theorem checkGuard_ignoresHistory : IgnoresHistory fun s => .next (checkGuard s) :=
  .next_ite (fun _ _ => rfl) (.next fun _ _ => rfl) (recordOp_ignoresHistory .guardCheck .none)

theorem txBranch_ignoresHistory : IgnoresHistory txBranch :=
  .ite (fun _ _ => rfl) (checkGuard_ignoresHistory.andThen (f' := fun t => .next { t with loopPhase := .iterStart })
      (.next fun _ _ => rfl))
    (.ite (fun _ _ => rfl) (scan_ignoresHistory.comp checkGuard_ignoresHistory) next_ignoresHistory)

theorem agentLStep_ignoresHistory (q : DrainDraw) : IgnoresHistory (agentLStep q) :=
  .of_view State.loopPhase (fun _ _ => rfl) fun
    | .iterStart => ⟨_, .next fun _ _ => rfl, fun _ => agentLStep_iterStart q⟩
    | .txBranch => ⟨_, txBranch_ignoresHistory, fun _ => agentLStep_txBranch q⟩
    | .rxCmd => ⟨_, collectorStep_ignoresHistory, fun _ => agentLStep_rxCmd q⟩
    | .rxDrain => ⟨_, drainStep_ignoresHistory q, fun _ => agentLStep_rxDrain q⟩

/-! ### Environment and frames -/

theorem execEnvTime_ignoresHistory (d : Time) : IgnoresHistory (execEnvTime d) :=
  .ite (fun _ _ => rfl) (.next fun _ _ => rfl) next_ignoresHistory

theorem execEnvWdtExpire_ignoresHistory (d : ResetDraw) : IgnoresHistory (execEnvWdtExpire d) :=
  .ite (fun _ _ => rfl) (.next fun _ _ => rfl) next_ignoresHistory

theorem agentLSteps_ignoresHistory (n : Nat) : IgnoresHistory (agentLSteps n) := by
  induction n with
  | zero => exact next_ignoresHistory
  | succ n ih => exact (agentLStep_ignoresHistory ⟨false, false⟩).andThen ih

theorem takeFrame_ignoresHistory (n : Nat) : IgnoresHistory (takeFrame n) :=
  .operand (fun s => if s.loopPhase = .iterStart then n + 1 else n) (fun _ _ => rfl) agentLSteps_ignoresHistory

theorem hostAppendAll_ignoresHistory (bs : List Byte) : IgnoresHistory fun s => .next (hostAppendAll bs s) :=
  .next fun s h => by rw [hostAppendAll_eq, hostAppendAll_eq]; rfl

theorem takeReceiveFrame_ignoresHistory (r : Request) (n : Nat) : IgnoresHistory (takeReceiveFrame r n) :=
  .ite (fun _ _ => rfl) ((takeFrame_ignoresHistory n).comp (hostAppendAll_ignoresHistory r.bytes))
    (hostAppendAll_ignoresHistory r.bytes)

theorem takeTransmitFrame_ignoresHistory (r : Request) : IgnoresHistory (takeTransmitFrame r) :=
  .ite (fun _ _ => rfl) ((takeFrame_ignoresHistory 1).comp (hostAppendAll_ignoresHistory r.bytes))
    (hostAppendAll_ignoresHistory r.bytes)

/-! ### Every instruction and every step -/

theorem exec_ignoresHistory (i : Instr) : IgnoresHistory (exec i) :=
  match i with
  | .timerStrobe => execTimerStrobe_ignoresHistory
  | .tick d => execTick_ignoresHistory d
  | .tickRx d => execTickRx_ignoresHistory d
  | .tickTx => execTickTx_ignoresHistory
  | .rxDrain q => drainStep_ignoresHistory q
  | .rxCmd => collectorStep_ignoresHistory
  | .cmdPttDown => execCmdPttDown_ignoresHistory
  | .cmdTuneTo => execCmdTuneTo_ignoresHistory
  | .cmdFilters => execCmdFilters_ignoresHistory
  | .cmdIgnore => fun _ _ => rfl
  | .cmdAbandon => execCmdAbandon_ignoresHistory
  | .txScan => execTxScan_ignoresHistory
  | .txIngest p => ingest_ignoresHistory p
  | .txSwap => fun _ _ => rfl
  | .cmdPttUp => execCmdPttUp_ignoresHistory
  | .cmdTxIgnore _ => fun _ _ => rfl
  | .modeEnterTx => fun _ _ => rfl
  | .modeEnterRx => fun _ _ => rfl
  | .guardCheck => checkGuard_ignoresHistory
  | .wdtKick => fun _ _ => rfl
  | .loopIter q => agentLStep_ignoresHistory q
  | .reset _ => fun _ _ => rfl
  | .envTime d => execEnvTime_ignoresHistory d
  | .envHostByte _ => fun _ _ => rfl
  | .envWdtExpire d => execEnvWdtExpire_ignoresHistory d
  | .framePttDown pre => takeReceiveFrame_ignoresHistory (rxFrameRequest pre 1 []) 10
  | .frameTuneTo pre p => takeReceiveFrame_ignoresHistory (rxFrameRequest pre 3 p.bytes) 11
  | .frameFilters pre p => takeReceiveFrame_ignoresHistory (rxFrameRequest pre 4 p.bytes) 11
  | .frameIgnore pre sel => takeReceiveFrame_ignoresHistory (rxFrameRequest pre sel []) 10
  | .framePttUp => takeTransmitFrame_ignoresHistory (txFrameRequest pttUpSelector)
  | .frameTxIgnore sel => takeTransmitFrame_ignoresHistory (txFrameRequest sel)

/-- The watchdog's draws read the script's line and the draw counter (R182). -/
theorem chooseExpiry_history (s : State) (h : List Entry) :
    chooseExpiry { s with history := h } = ((chooseExpiry s).1, { (chooseExpiry s).2 with history := h }) := by
  by_cases hd : ∃ d, scriptHead s = some (.ok (.envWdtExpire d))
  · obtain ⟨d, hd⟩ := hd
    rw [chooseExpiry_scripted hd, chooseExpiry_scripted (s := { s with history := h }) hd]
    rfl
  · have hd := not_exists.mp hd
    rw [chooseExpiry_drawn hd, chooseExpiry_drawn (s := { s with history := h }) hd]
    rfl

/-- The timer's step reads the script's line (R182). -/
theorem chooseStrobe_history (s : State) (h : List Entry) :
    chooseStrobe { s with history := h } = ((chooseStrobe s).1, { (chooseStrobe s).2 with history := h }) := by
  by_cases hd : scriptHead s = some (.ok .timerStrobe)
  · rw [chooseStrobe_scripted hd, chooseStrobe_scripted (s := { s with history := h }) hd]
    rfl
  · rw [chooseStrobe_unscripted hd, chooseStrobe_unscripted (s := { s with history := h }) hd]

/-- With neither the watchdog's nor the timer's step due, the script's line runs or is refused, or a free choice runs (R182). -/
theorem step_ignoresHistory_of_notDue {s : State} (hw : watchdogDue s = false) (ht : strobeDue s = false)
    (h : List Entry) : SameButHistory (step { s with history := h }) (step s) := by
  generalize hs' : { s with history := h } = s'
  have hw' : watchdogDue s' = false := by rw [← hs']; exact hw
  have ht' : strobeDue s' = false := by rw [← hs']; exact ht
  have hscript : s'.script = s.script := by rw [← hs']
  cases hs : s.script with
  | nil =>
    rw [step_free hw ht hs, step_free hw' ht' (hscript.trans hs), ← hs']
    exact exec_ignoresHistory (freeStep s) (nextDraw s) h
  | cons r rest =>
    cases hr : decode r with
    | ok i =>
      rw [step_script hw ht hs hr, step_script hw' ht' (hscript.trans hs) hr, ← hs']
      exact exec_ignoresHistory i (popScript s) h
    | error e =>
      rw [step_undecodable hw ht hs hr, step_undecodable hw' ht' (hscript.trans hs) hr]
      rfl

/-- Settles O60: at each of R182's priorities the same instruction is chosen, and no instruction reads the history. -/
theorem historyIsNeverRead : Obligations.HistoryIsNeverRead := by
  intro s h
  cases hw : watchdogDue s with
  | true =>
    rw [step_of_watchdogDue hw, step_of_watchdogDue (s := { s with history := h }) hw, chooseExpiry_history]
    exact exec_ignoresHistory _ _ h
  | false =>
    cases ht : strobeDue s with
    | true =>
      rw [step_of_strobeDue hw ht, step_of_strobeDue (s := { s with history := h }) hw ht, chooseStrobe_history]
      exact exec_ignoresHistory _ _ h
    | false => exact step_ignoresHistory_of_notDue hw ht h

/-! ### The watchdog's expiry (R175, R187) -/

theorem errorEvents_applyReset (d : ResetDraw) (s : State) : errorEvents (applyReset d s) = errorEvents s :=
  errorEvents_recordOp .reset .none s

/-- The expiry step is its entry, the event and RESET. -/
theorem execEnvWdtExpire_due {s : State} (h : s.cfg.wdtTimeoutUs ≤ elapsed s s.wdtLast) (d : ResetDraw) :
    execEnvWdtExpire d s =
      .next (applyReset d (raiseEvent .wdtReset (.time s.wdtLast) (recordOp .envWdtExpire .none s))) :=
  if_pos (decide_eq_true h)

/-- Settles O41: RESET reads no entry of the history, and the one event stands before it. -/
theorem watchdogExpiryResets : Obligations.WatchdogExpiryResets := fun _ d h =>
  ⟨_, _, execEnvWdtExpire_due h d, rfl, rfl, by
    rw [errorEvents_applyReset, errorEvents_raiseEvent, errorEvents_recordOp, recordOp_now]⟩

end Sys2Proof.Machine
end

section
/-! SUPPORT. RESET and the power-on reset (R186, R188, R189), and the machine's progress (R205). -/

namespace Sys2Proof.Machine

/-! ### RESET (R186, R189) -/

/-- Settles O39: the state RESET builds is the named one, but for its own entry, which is no error event. -/
theorem resetWritesEveryRegister : Obligations.ResetWritesEveryRegister := fun s d =>
  ⟨applyReset d s, rfl, errorEvents_applyReset d s, rfl⟩

theorem getArray_applyReset (a : ArrayName) (d : ResetDraw) (s : State) : getArray (applyReset d s) a = [] := by
  cases a <;> rfl

/-- A slot of an array that nothing has written reads as a free value of the last reset's number (log entry 5). -/
theorem slot_of_getArray_nil {s : State} {a : ArrayName} (h : getArray s a = []) (i : Nat) :
    slot s a i = Config.freeArrayByte a s.arrayEpoch i := by
  simp only [slot, h, memRead, Option.getD_none]

/-- Settles O40: RESET leaves no slot of any array written. -/
theorem resetRedrawsEveryArraySlot : Obligations.ResetRedrawsEveryArraySlot := fun s d =>
  ⟨applyReset d s, rfl, fun a i => by rw [slot_of_getArray_nil (getArray_applyReset a d s), applyReset_arrayEpoch]⟩

/-- Settles O43, each register read off the power-on state. -/
theorem powerOnControlState : Obligations.PowerOnControlState :=
  ⟨rfl, rfl, rfl, rfl, rfl, rfl, rfl, rfl, rfl, rfl⟩

/-! ### Progress (R205) -/

theorem Effect.script_eq {a : Actor} {s t : State} (e : Effect a s t) : t.script = s.script := by
  cases e with
  | emit x => exact emit_script x s
  | storeParams => exact setArray_script _ _ s
  | silence => exact setArray_script _ _ s
  | record | raise | takeStrobe | storeSample | driveSample | noteKick | goTo | readHost | startHeader | countHeader
  | keepSelector | beginParams | completeCommand | enterTx | enterRx | countDelim | append | appendSwap | swap | snapshot
  | copyByte | advanceHead | endDrain | latchStrobe | advanceNow | arrive | reset => rfl

/-- No instruction scripts anything, and a step at most uses a line up. -/
theorem step_keeps_script_nil {s t : State} (hs : s.script = []) (h : step s = .next t) : t.script = [] :=
  step_keeps (P := fun s => s.script = []) (fun e hs => e.script_eq.trans hs) id
    (fun hs => by rw [popScript_script, hs, List.tail_nil]) hs h

/-- There is a next operation unless the script's first line names none: with nothing scripted a step is always enabled (R62). -/
theorem nextInstr_isOk {s : State} (h : ∀ r rest, s.script = r :: rest → ∃ i, decode r = .ok i) :
    ∃ i u, nextInstr s = .ok (i, u) := by
  unfold nextInstr
  split
  · exact ⟨_, _, rfl⟩
  · split
    · exact ⟨_, _, rfl⟩
    · split
      · exact ⟨_, _, rfl⟩
      next hhead =>
        obtain ⟨r, rest, hs, herr⟩ := scriptHead_eq_some.mp hhead
        obtain ⟨i, hok⟩ := h r rest hs
        exact absurd (herr.symm.trans hok) nofun
      · exact ⟨_, _, rfl⟩

/-- Settles O53: there is a next operation, which completes because it runs on a state that meets the invariant. -/
theorem theMachineNeverHalts : Obligations.TheMachineNeverHalts := by
  intro s hinv hscript
  obtain ⟨i, u, hnext⟩ := nextInstr_isOk hscript
  obtain ⟨t, ht⟩ := exec_completes i ((nextInstr_from hnext).keeps_inv hinv)
  have hstep : step s = .next t := by simp only [step, hnext, ht]
  exact ⟨t, hstep, fun hs => step_keeps_script_nil hs hstep⟩

end Sys2Proof.Machine
end
